-- ==== Sys2Proof/Word.lean ====
section
/-! DEFINITION. The widths of A4P3-PB's values (00_scope.md rules R9, R10).

Every value is unsigned. A data value is a byte, or a nibble inside one; a command word has 32 bits. -/

namespace Sys2Proof

/-- An 8-bit data value, register address or port value (rule R9). -/
abbrev Byte := BitVec 8

/-- A 4-bit half of a byte (rule R16). -/
abbrev Nibble := BitVec 4

/-- A 32-bit command word or host register (rules R9, R28). -/
abbrev Word := BitVec 32

end Sys2Proof
end

