-- ==== Sys2Proof/Config.lean ====
section
/-! DEFINITION. The implementation parameters of 00_scope.md rule R7, and the model's free values.

A configuration is plain data, fixed for a run (10_state.md rule R36). The machine carries it in its state, where
no step writes it, so that a statement about every state is a statement about every configuration. -/

namespace Sys2Proof

/-- The three named delays (R14, R149). -/
inductive Dly where
  /-- `DLY_PRE`. -/
  | pre
  /-- `DLY_INIT`. -/
  | init
  /-- `DLY_CLEAR`. -/
  | clear
deriving DecidableEq, Repr

/-- `POLL_TAIL`: whether a busy read ends with an enable-low write (R7, D17). -/
inductive PollTail where
  /-- No trailing write (the default). -/
  | none
  /-- A trailing write with enable low. -/
  | deassert
deriving DecidableEq, Repr

/-- `INIT_ORDER`: the order of display-on and clear in LCD initialisation (R7, D23). -/
inductive InitOrder where
  /-- Display-on, then clear (the default). -/
  | onThenClear
  /-- Clear, then display-on. -/
  | clearThenOn
deriving DecidableEq, Repr

/-- The parameters of rule R7. `PB_DATA` is not among the fields: rules R8 and R88 fix it at 0x0F. -/
structure Config where
  /-- `PIN_CS`, a platform pin identifier. -/
  pinCs : Nat
  /-- `PIN_SCK`, a platform pin identifier. -/
  pinSck : Nat
  /-- `PIN_MOSI`, a platform pin identifier. -/
  pinMosi : Nat
  /-- `PIN_MISO`, a platform pin identifier. -/
  pinMiso : Nat
  /-- `OPC_WRITE`. -/
  opcWrite : Byte
  /-- `OPC_READ`. -/
  opcRead : Byte
  /-- `REG_IODIRA`. -/
  regIodira : Byte
  /-- `REG_IODIRB`. -/
  regIodirb : Byte
  /-- `REG_GPPUA`. -/
  regGppua : Byte
  /-- `REG_GPIOA`. -/
  regGpioa : Byte
  /-- `REG_GPIOB`. -/
  regGpiob : Byte
  /-- `DIR_ALL_IN`. -/
  dirAllIn : Byte
  /-- `DIR_ALL_OUT`. -/
  dirAllOut : Byte
  /-- `PU_ALL_ON`. -/
  puAllOn : Byte
  /-- `DUMMY`. -/
  dummy : Byte
  /-- `PB_RS`. -/
  pbRs : Byte
  /-- `PB_RW`. -/
  pbRw : Byte
  /-- `PB_E`. -/
  pbE : Byte
  /-- `PB_BL`. -/
  pbBl : Byte
  /-- `NIB_INIT_A`. -/
  nibInitA : Nibble
  /-- `NIB_INIT_B`. -/
  nibInitB : Nibble
  /-- `LCD_FUNCSET`. -/
  lcdFuncset : Byte
  /-- `LCD_DISPON`. -/
  lcdDispon : Byte
  /-- `LCD_CLEAR`. -/
  lcdClear : Byte
  /-- `LCD_ENTRY`. -/
  lcdEntry : Byte
  /-- The duration of `DLY_PRE`, in a unit of the platform's. -/
  dlyPre : Nat
  /-- The duration of `DLY_INIT`, in a unit of the platform's. -/
  dlyInit : Nat
  /-- The duration of `DLY_CLEAR`, in a unit of the platform's. -/
  dlyClear : Nat
  /-- `BUSY_LIMIT`; `none` is `UNBOUNDED`. -/
  busyLimit : Option Nat
  /-- `POLL_TAIL`. -/
  pollTail : PollTail
  /-- `INIT_ORDER`. -/
  initOrder : InitOrder
deriving DecidableEq, Repr

/-- The durations of the three delays in the configuration the machine is reset with. The spec leaves them `OPEN`
(R7, D28), so they are constants without a value (log entry 3). -/
opaque Config.openDelay : Dly → Nat

/-- The defaults of rule R7. The pin identifiers are `OPEN` there; the four numbers below are the model's
(DESIGN CHOICE, log entry 2). -/
def Config.default : Config where
  pinCs := 0
  pinSck := 1
  pinMosi := 2
  pinMiso := 3
  opcWrite := 0x40
  opcRead := 0x41
  regIodira := 0x00
  regIodirb := 0x01
  regGppua := 0x0C
  regGpioa := 0x12
  regGpiob := 0x13
  dirAllIn := 0xFF
  dirAllOut := 0x00
  puAllOn := 0xFF
  dummy := 0x00
  pbRs := 0x10
  pbRw := 0x20
  pbE := 0x40
  pbBl := 0x80
  nibInitA := 0x3
  nibInitB := 0x2
  lcdFuncset := 0x28
  lcdDispon := 0x0E
  lcdClear := 0x01
  lcdEntry := 0x06
  dlyPre := Config.openDelay .pre
  dlyInit := Config.openDelay .init
  dlyClear := Config.openDelay .clear
  busyLimit := none
  pollTail := .none
  initOrder := .onThenClear

/-! ### Free values

Each constant below has no body: nothing in Lean can evaluate it. -/

/-- The level a `PinRead(PIN_MISO)` draws from the environment, by the number of draws made before it, where the
state's own list of draws holds none (R38; log entry 5). -/
opaque Config.misoDraw : Nat → Bool

/-- What `XO` holds after an XFER (R26: unspecified; log entry 13). -/
opaque Config.freeXo : Nat → Byte

/-- What `XI` holds after an XFER (R26: unspecified; log entry 13). -/
opaque Config.freeXi : Nat → Byte

/-- What `XB` holds after an XFER (R26: unspecified; log entry 13). -/
opaque Config.freeXb : Nat → BitVec 3

/-- What `HI` holds after a busy read or busy-poll (R27, R210, I11: any value; log entry 13). -/
opaque Config.freeHi : Nat → Nibble

/-- What `LO` holds after a busy read or busy-poll (R27, R210, I11: any value; log entry 13). -/
opaque Config.freeLo : Nat → Nibble

/-- What `ST` holds after a busy read or busy-poll (R27, R210, I11: any value; log entry 13). -/
opaque Config.freeSt : Nat → Byte

/-- What `NB` holds after a busy-poll (R27, R210, I11: any value; log entry 13). -/
opaque Config.freeNb : Nat → Nat

end Sys2Proof
end

