-- ==== Sys2Proof/Syntax.lean ====
section
/-! DEFINITION. The fourteen commands of the opcode map (30_encoding.md rule R82), one constructor a row.

The host names a command by a word in the format `C32` (rule R80); the operands kept here are the fields the
row uses, as they stand (rule R81). -/

namespace Sys2Proof

/-- The commands of A4P3-PB. -/
inductive Instr where
  /-- `BEGIN`: assert chip-select (R100). -/
  | beginCs
  /-- `END`: deassert chip-select (R101). -/
  | endCs
  /-- `XFER d`: transfer one byte, full duplex (R102). -/
  | xfer (d : Byte)
  /-- `RDREG a`: read one expander register (R120). -/
  | rdreg (a : Byte)
  /-- `WRREG a, v`: write one expander register (R122). -/
  | wrreg (a v : Byte)
  /-- `EXPINIT`: initialise the expander's ports (R124). -/
  | expinit
  /-- `GETBTN`: read port A (R126). -/
  | getbtn
  /-- `BUSYRD`: one busy read (R140). -/
  | busyrd
  /-- `BUSYWAIT`: the busy-poll (R142). -/
  | busywait
  /-- `PULSE4 rs, n`: one nibble pulse (R144). -/
  | pulse4 (rs : Bool) (n : Nibble)
  /-- `WRCMD c`: write one command byte to the LCD (R146). -/
  | wrcmd (c : Byte)
  /-- `WRDATA d`: write one data byte to the LCD (R148). -/
  | wrdata (d : Byte)
  /-- `LCDINIT`: the LCD initialisation sequence (R152). -/
  | lcdinit
  /-- `DELAY s`: wait for the delay that selector `s` names (R150); `s` = 3 names none and is ill-formed. -/
  | delay (s : BitVec 2)
deriving DecidableEq, Repr

end Sys2Proof
end

