-- ==== Sys2Proof/WellFormed.lean ====
section
/-! DEFINITION. Well-formed commands (30_encoding.md rules R81, R82) and well-formed configurations (00_scope.md
rule R8). -/

namespace Sys2Proof

/-- A command that some legal word encodes. Every operand value is legal but the selector 3 of DELAY (R82, R90). -/
def Instr.wf : Instr → Bool
  | .beginCs => true
  | .endCs => true
  | .xfer _ => true
  | .rdreg _ => true
  | .wrreg _ _ => true
  | .expinit => true
  | .getbtn => true
  | .busyrd => true
  | .busywait => true
  | .pulse4 _ _ => true
  | .wrcmd _ => true
  | .wrdata _ => true
  | .lcdinit => true
  | .delay s => s != 3

/-- Exactly one bit of the byte is set (R8). -/
def oneBit (b : Byte) : Bool := b != 0 && (b &&& (b - 1)) == 0

/-- The four pins are distinct (R8). -/
def Config.pinsDistinct (c : Config) : Bool :=
  c.pinCs != c.pinSck && c.pinCs != c.pinMosi && c.pinCs != c.pinMiso
    && c.pinSck != c.pinMosi && c.pinSck != c.pinMiso && c.pinMosi != c.pinMiso

/-- Each control-line mask is one bit, outside the data mask 0x0F (R8). -/
def Config.controlBitsOk (c : Config) : Bool :=
  [c.pbRs, c.pbRw, c.pbE, c.pbBl].all fun b => oneBit b && (b &&& 0x0F) == 0

/-- The control-line masks are pairwise distinct (R8). -/
def Config.controlBitsDistinct (c : Config) : Bool :=
  c.pbRs != c.pbRw && c.pbRs != c.pbE && c.pbRs != c.pbBl
    && c.pbRw != c.pbE && c.pbRw != c.pbBl && c.pbE != c.pbBl

/-- A finite `BUSY_LIMIT` is at least 1 (R8). -/
def Config.busyLimitOk (c : Config) : Bool :=
  match c.busyLimit with
  | none => true
  | some l => 1 ≤ l

/-- The conditions of rule R8; the machine refuses a configuration that fails one. -/
def Config.wf (c : Config) : Bool :=
  c.pinsDistinct && c.opcRead != c.opcWrite && c.controlBitsOk && c.controlBitsDistinct && c.busyLimitOk

end Sys2Proof
end

