-- ==== Sys2Proof/Decode.lean ====
section
/-! DEFINITION. The command word: its fields (30_encoding.md rule R80), its decoder (R82, R90, R93) and its encoder. -/

namespace Sys2Proof

/-! ### The fields of `C32` -/

/-- `OP`, bits 31:28. -/
def opOf (w : Word) : BitVec 4 := w.extractLsb' 28 4

/-- `Z`, bits 27:17. -/
def zOf (w : Word) : BitVec 11 := w.extractLsb' 17 11

/-- `R`, bit 16. -/
def rOf (w : Word) : Bool := w.getLsbD 16

/-- `A`, bits 15:8. -/
def aOf (w : Word) : Byte := w.extractLsb' 8 8

/-- `D`, bits 7:0. -/
def dOf (w : Word) : Byte := w.extractLsb' 0 8

/-- PULSE4's nibble `N` = `D[3:0]` (R81). -/
def nOf (w : Word) : Nibble := w.extractLsb' 0 4

/-- DELAY's selector `S` = `A[1:0]` (R81). -/
def sOf (w : Word) : BitVec 2 := w.extractLsb' 8 2

/-- A word in the format `C32`, with the reserved field `Z` at 0. -/
def c32 (op : BitVec 4) (r : Bool) (a d : Byte) : Word :=
  op ++ (0 : BitVec 11) ++ BitVec.ofBool r ++ a ++ d

/-! ### The decoder -/

/-- Why a word is illegal (R90). -/
inductive Illegal where
  /-- `OP` is 0x0 or 0xF. -/
  | reservedOp
  /-- A field the row marks "must be 0" is not 0. -/
  | mustBeZero
  /-- DELAY with the selector 3. -/
  | delaySelector
deriving DecidableEq, Repr

/-- A row's match and mask test (R82): the word encodes the row's command exactly when `w & mask = match`. -/
def row (w mtch mask : Word) (i : Instr) : Except Illegal Instr :=
  if w &&& mask = mtch then .ok i else .error .mustBeZero

/-- The DELAY row's further exclusion of the selector 3 (R82, R93). -/
def notSelector3 : Except Illegal Instr → Except Illegal Instr
  | .ok (.delay s) => if s = 3 then .error .delaySelector else .ok (.delay s)
  | e => e

/-- The decoder of rule R93: total, each word one command or illegal by name. -/
def decode (w : Word) : Except Illegal Instr :=
  match (opOf w).toNat with
  | 0x1 => row w 0x10000000 0xFFFFFFFF .beginCs
  | 0x2 => row w 0x20000000 0xFFFFFFFF .endCs
  | 0x3 => row w 0x30000000 0xFFFFFF00 (.xfer (dOf w))
  | 0x4 => row w 0x40000000 0xFFFF00FF (.rdreg (aOf w))
  | 0x5 => row w 0x50000000 0xFFFF0000 (.wrreg (aOf w) (dOf w))
  | 0x6 => row w 0x60000000 0xFFFFFFFF .expinit
  | 0x7 => row w 0x70000000 0xFFFFFFFF .getbtn
  | 0x8 => row w 0x80000000 0xFFFFFFFF .busyrd
  | 0x9 => row w 0x90000000 0xFFFFFFFF .busywait
  | 0xA => row w 0xA0000000 0xFFFEFFF0 (.pulse4 (rOf w) (nOf w))
  | 0xB => row w 0xB0000000 0xFFFFFF00 (.wrcmd (dOf w))
  | 0xC => row w 0xC0000000 0xFFFFFF00 (.wrdata (dOf w))
  | 0xD => row w 0xD0000000 0xFFFFFFFF .lcdinit
  | 0xE => notSelector3 (row w 0xE0000000 0xFFFFFCFF (.delay (sOf w)))
  | _ => .error .reservedOp

/-- The command of an opcode-table row's word: one 32-bit word, written whole (R69, R91), so its bits are the
table's bits and it has no byte order. -/
def decodeTableWord (nbits w : Nat) : Option Instr :=
  (decode (BitVec.ofNat 32 (w % 2 ^ nbits))).toOption

/-! ### The encoder -/

/-- The word of a command, from the format and the opcode map (R80, R82). An ill-formed DELAY gets the illegal word
0xE0000300. -/
def encode : Instr → Word
  | .beginCs => c32 0x1 false 0 0
  | .endCs => c32 0x2 false 0 0
  | .xfer d => c32 0x3 false 0 d
  | .rdreg a => c32 0x4 false a 0
  | .wrreg a v => c32 0x5 false a v
  | .expinit => c32 0x6 false 0 0
  | .getbtn => c32 0x7 false 0 0
  | .busyrd => c32 0x8 false 0 0
  | .busywait => c32 0x9 false 0 0
  | .pulse4 rs n => c32 0xA rs 0 (n.setWidth 8)
  | .wrcmd c => c32 0xB false 0 c
  | .wrdata d => c32 0xC false 0 d
  | .lcdinit => c32 0xD false 0 0
  | .delay s => c32 0xE false (s.setWidth 8) 0

end Sys2Proof
end

