-- ==== Sys2Proof/Machine/State.lean ====
section
/-! DEFINITION. The state of A4P3-PB (10_state.md), as plain data, and its value after reset (R210).

The block has no memory (20_memory.md R60): the expander's register space is the environment's. `BSY`, `FLT`, `CSA`
and the mirrors in `STATUS` are views, computed in Flags.lean from the one home each has here. -/

namespace Sys2Proof.Machine

/-- The three output pins (R21). They stand for `PIN_CS`, `PIN_SCK` and `PIN_MOSI`; the configuration says which
platform pin each is. The one input pin, `PIN_MISO`, has no level here (R23). -/
inductive OutPin where
  /-- `PIN_CS`. -/
  | cs
  /-- `PIN_SCK`. -/
  | sck
  /-- `PIN_MOSI`. -/
  | mosi
deriving DecidableEq, Repr

/-- The fault codes of R180. -/
inductive FaultCode where
  /-- 0: no fault. -/
  | none
  /-- 1: the command word is illegal (R181). -/
  | illegalCmd
  /-- 2: `CMD` written while `BSY` = 1 (R182). -/
  | overrun
  /-- 3: XFER with chip-select deasserted (R183). -/
  | xferNoCs
  /-- 4: a command that opens a window, with chip-select asserted (R184). -/
  | nestedCs
  /-- 5: END with chip-select deasserted (R185). -/
  | endNoCs
  /-- 6: an LCD command before expander initialisation (R186). -/
  | notInit
  /-- 7: expander initialisation a second time (R187). -/
  | expReinit
  /-- 8: LCD initialisation a second time (R188). -/
  | lcdReinit
  /-- 9: `BUSY_LIMIT` busy reads all busy (R189). -/
  | busyTimeout
deriving DecidableEq, Repr

/-- The events of the trace (R34, R210). The first four are pin events and delays, the others bookkeeping. -/
inductive Event where
  /-- `Set(p)`: pin `p` was driven high. -/
  | set (p : OutPin)
  /-- `Clear(p)`: pin `p` was driven low. -/
  | clear (p : OutPin)
  /-- `Read(PIN_MISO, b)`: the data-in pin was sampled as `b`. -/
  | read (b : Bool)
  /-- `Delay(d)`: the named delay was waited for. -/
  | delay (d : Dly)
  /-- `Issue(w)`: a command word was accepted. -/
  | issue (w : Word)
  /-- `Done(w)`: that command completed. -/
  | done (w : Word)
  /-- `Fault(c, w)`: fault entry. -/
  | fault (c : FaultCode) (w : Word)
  /-- `Reset`. -/
  | reset
deriving DecidableEq, Repr

/-- The pseudocode's primitives (R14), each one step of the block. -/
inductive Prim where
  /-- `PinSet(p)`. -/
  | set (p : OutPin)
  /-- `PinClear(p)`. -/
  | clear (p : OutPin)
  /-- XFER's drive of data-out: `if XO[i] = 1: PinSet(PIN_MOSI) else PinClear(PIN_MOSI)` (R102). -/
  | drive
  /-- XFER's sample of data-in: `b <- PinRead(PIN_MISO)`, accumulated into `XI` (R102). -/
  | sample
  /-- `Delay(d)`. -/
  | delay (d : Dly)
  /-- `raise Fault(c)`. -/
  | raise (c : FaultCode)
deriving DecidableEq, Repr

/-- The pseudocode's assignments, which are no primitives and take no step of their own. -/
inductive Assign where
  /-- `XO <- d; XI <- 0x00` (R102). -/
  | xferStart (d : Byte)
  /-- `XB <- i` (R102). -/
  | bit (i : BitVec 3)
  /-- `return XI` of an XFER (R102). -/
  | xferReturn
  /-- `HI <- r1 & PB_DATA` (R140). -/
  | latchHi
  /-- `LO <- r2 & PB_DATA` (R140). -/
  | latchLo
  /-- `ST <- (HI << 4) | LO` (R140). -/
  | assemble
  /-- `return ST` of a BUSYRD (R140). -/
  | statusReturn
  /-- `NB <- 0` (R142). -/
  | pollStart
  /-- `EI <- 1` (R124). -/
  | setEi
  /-- `LI <- 1` (R152). -/
  | setLi
  /-- `RESULT.RB <- result; STATUS.RV <- 1` (R31). -/
  | result
deriving DecidableEq, Repr

/-- One line of a command's pseudocode. -/
inductive Op where
  /-- A primitive: one step. -/
  | act (p : Prim)
  /-- An assignment: done together with the primitive before it. -/
  | let_ (a : Assign)
  /-- The loop test of BUSYWAIT (R142). -/
  | pollTest
deriving DecidableEq, Repr

/-- The sequencer (R25): idle, or running the command of word `w` with the remaining pseudocode `k`. -/
inductive Seq where
  /-- `Idle`. -/
  | idle
  /-- `Run(w, k)`. -/
  | run (w : Word) (k : List Op)
deriving DecidableEq, Repr

/-- One turn of the host (R40). An access names an offset of the host port and a width in bits (R28). -/
inductive HostOp where
  /-- The host does nothing, and the block takes its step. -/
  | pause
  /-- A write of `v` at `offset`. -/
  | write (offset width : Nat) (v : Word)
  /-- A read at `offset`. -/
  | read (offset width : Nat)
  /-- The reset signal (R210, R211). -/
  | reset
deriving DecidableEq, Repr

/-- Why the run stops with a fault of the model. The nine fault codes of R180 are no such stop: taking one is a next
state (R191). -/
inductive Fault where
  /-- The host read `RESULT` while `RV` = 0. Raised by the host port's read (R43: "the host's observation of it
  faults"). Safe: the run stops, and no value is made up. -/
  | resultHasNoValue
deriving DecidableEq, Repr

/-- What the model refuses. -/
inductive Refusal where
  /-- An instruction without a meaning. Raised by no arm of this model. Safe. -/
  | notModelled (mnemonic : String)
  /-- A host access at an offset that is no register of the port. Raised by the host port (R28). Safe. -/
  | outOfPort (offset : Nat)
  /-- A host access that is not 32 bits wide. Raised by the host port (R28). Safe. -/
  | accessWidth (width : Nat)
  /-- A configuration that fails a condition of R8. Raised by the step. Safe. -/
  | illFormedConfig
deriving DecidableEq, Repr

end Sys2Proof.Machine

namespace Sys2Proof.Machine

/-- The state of the machine. -/
structure State where
  /-- The parameters of R7, fixed for a run (R36). -/
  cfg : Config
  /-- `CS_N`, the level of `PIN_CS`; low is asserted (R22). -/
  csN : Bool
  /-- `SCK`, the level of `PIN_SCK` (R22). -/
  sck : Bool
  /-- `MOSI`, the level of `PIN_MOSI` (R22). -/
  mosi : Bool
  /-- `EI`: expander initialisation has completed (R24). -/
  ei : Bool
  /-- `LI`: LCD initialisation has completed (R24). -/
  li : Bool
  /-- `SEQ`, the sequencer (R25). -/
  seq : Seq
  /-- `XO`: the byte an XFER sends (R26). -/
  xo : Byte
  /-- `XI`: the accumulating input byte of an XFER (R26). -/
  xi : Byte
  /-- `XB`: the index of the bit in flight (R26). -/
  xb : BitVec 3
  /-- `HI`: the high nibble of a busy read (R27). -/
  hi : Nibble
  /-- `LO`: the low nibble of a busy read (R27). -/
  lo : Nibble
  /-- `ST`: the assembled status of a busy read (R27). -/
  st : Byte
  /-- `NB`: the busy reads a busy-poll has done (R27). -/
  nb : Nat
  /-- The value the pseudocode's last `return` gave; the model's own field (log entry 20). -/
  ret : Byte
  /-- `RESULT.RB` (R30). -/
  rb : Byte
  /-- `STATUS.RV` (R29, R31). -/
  rv : Bool
  /-- `STATUS.FC` (R29, R180); `STATUS.FLT` is 1 exactly when it is not `NONE`. -/
  fc : FaultCode
  /-- `FCMD` (R32). -/
  fcmd : Word
  /-- The trace, oldest event first (R34). -/
  trace : List Event
  /-- The levels the environment presents at the next samples of `PIN_MISO`, soonest first; the model's own field
  (R38, log entry 5). -/
  miso : List Bool
  /-- How many samples of `PIN_MISO` were drawn so far; the model's own field (log entry 5). -/
  drawn : Nat
  /-- The counter of the free values the temporaries take; the model's own field (log entry 13). -/
  fresh : Nat
  /-- The host's coming turns, soonest first; the model's own field (R40, log entry 6). -/
  host : List HostOp
  /-- What the host's reads returned, as offset and value, oldest first; the model's own field (R40, log entry 6). -/
  reads : List (Nat × Word)
deriving DecidableEq, Repr

/-- The events a reset appends (R210). -/
def resetEvents : List Event := [.reset, .set .cs, .clear .sck, .clear .mosi]

/-- The state right after reset (R210), with the default configuration (R7), nothing in the host's and the
environment's lists, and the values of log entries 11 and 12 for the registers R210 leaves unspecified. -/
def State.reset : State where
  cfg := Config.default
  csN := true
  sck := false
  mosi := false
  ei := false
  li := false
  seq := .idle
  xo := 0
  xi := 0
  xb := 0
  hi := 0
  lo := 0
  st := 0
  nb := 0
  ret := 0
  rb := 0
  rv := false
  fc := .none
  fcmd := 0
  trace := resetEvents
  miso := []
  drawn := 0
  fresh := 0
  host := []
  reads := []

end Sys2Proof.Machine
end

