-- ==== Sys2Proof/Machine/Operands.lean ====
section
/-! DEFINITION. The operand forms: nibbles and bytes, the port B byte (30_encoding.md rules R86 to R89), the status
byte (42_lcd.md R140), the accumulation of a sampled bit (40_transport.md R102) and DELAY's selector (R150). -/

namespace Sys2Proof.Machine

/-- `PB_DATA`, the data-line mask (R88). -/
def pbData : Byte := 0x0F

/-- `v >> 4`, the nibble sent first (R67). -/
def hiNibble (v : Byte) : Nibble := v.extractLsb' 4 4

/-- `v & 0xF`, the nibble sent second (R67). -/
def loNibble (v : Byte) : Nibble := v.extractLsb' 0 4

/-- A nibble on the data lines, port B bits 3:0 (R88). -/
def onDataLines (n : Nibble) : Byte := n.setWidth 8

/-- The nibble a port B read carries: `r & PB_DATA`, the upper bits ignored (R89). -/
def dataNibble (r : Byte) : Nibble := loNibble (r &&& pbData)

/-- The latch-phase value of a pulse: backlight, register-select for data, the nibble; enable low (R87, R144). -/
def pulseLatch (c : Config) (rs : Bool) (n : Nibble) : Byte :=
  c.pbBl ||| (if rs then c.pbRs else 0) ||| onDataLines n

/-- The enable-phase value of a pulse: the same value with enable high (R87, R144). -/
def pulseEnable (c : Config) (rs : Bool) (n : Nibble) : Byte := pulseLatch c rs n ||| c.pbE

/-- A busy read's port B value with enable low: backlight and read mode (R87). -/
def readIdle (c : Config) : Byte := c.pbBl ||| c.pbRw

/-- A busy read's port B value with enable high (R87). -/
def readStrobe (c : Config) : Byte := c.pbBl ||| c.pbRw ||| c.pbE

/-- The status byte `(HI << 4) | LO` (R140). -/
def assembleStatus (hi lo : Nibble) : Byte := (hi.setWidth 8 <<< 4) ||| lo.setWidth 8

/-- `((x << 1) | b) mod 256`, the accumulation of one sampled bit (R102). -/
def shiftIn (x : Byte) (b : Bool) : Byte := (x <<< 1) ||| (BitVec.ofBool b).setWidth 8

/-- The byte that eight draws make, the first draw its bit 7 (R103). -/
def byteOfDraws (bs : List Bool) : Byte := bs.foldl shiftIn 0

/-- DELAY's selector (R81, R150); 3 names no delay. -/
def delayOf (s : BitVec 2) : Option Dly :=
  match s.toNat with
  | 0 => some .pre
  | 1 => some .init
  | 2 => some .clear
  | _ => none

end Sys2Proof.Machine
end

