-- ==== Sys2Proof/Machine/Code.lean ====
section
/-! DEFINITION. The pseudocode of the operations, line by line as the rules give it (40_transport.md R100 to R102,
41_expander.md R120 to R126, 42_lcd.md R140 to R152). An operation used inside another is inlined whole (00_scope.md
R11). -/

namespace Sys2Proof.Machine

/-! ### Transport -/

/-- `begin()` (R100). -/
def beginCode : List Op := [.act (.clear .cs)]

/-- `end()` (R101). -/
def endCode : List Op := [.act (.set .cs)]

/-- One bit cell of an XFER (R85, R102): drive, sample, clock high, clock low. -/
def bitCode (i : BitVec 3) : List Op :=
  [.let_ (.bit i), .act .drive, .act .sample, .act (.set .sck), .act (.clear .sck)]

/-- `transfer(d)` (R102): bits 7 down to 0; `ret` holds the byte received afterwards. -/
def xferCode (d : Byte) : List Op :=
  [.let_ (.xferStart d)]
    ++ ([7, 6, 5, 4, 3, 2, 1, 0] : List (BitVec 3)).flatMap bitCode
    ++ [.let_ .xferReturn]

/-! ### Expander register access -/

/-- `readRegister(a)` (R120); `ret` holds the register value afterwards. -/
def rdregCode (c : Config) (a : Byte) : List Op :=
  beginCode ++ xferCode c.opcRead ++ xferCode a ++ xferCode c.dummy ++ endCode

/-- `writeRegister(a, v)` (R122). -/
def wrregCode (c : Config) (a v : Byte) : List Op :=
  beginCode ++ xferCode c.opcWrite ++ xferCode a ++ xferCode v ++ endCode

/-- Expander initialisation (R124). -/
def expinitCode (c : Config) : List Op :=
  wrregCode c c.regIodira c.dirAllIn ++ wrregCode c c.regGppua c.puAllOn
    ++ wrregCode c c.regIodirb c.dirAllOut ++ [.let_ .setEi]

/-- `getButtons()` (R126). -/
def getbtnCode (c : Config) : List Op := rdregCode c c.regGpioa

/-! ### LCD protocol engine -/

/-- `PB(v)`: a write of port B (42_lcd.md's shorthand). -/
def portBWrite (c : Config) (v : Byte) : List Op := wrregCode c c.regGpiob v

/-- `RPB()`: a read of port B (42_lcd.md's shorthand). -/
def portBRead (c : Config) : List Op := rdregCode c c.regGpiob

/-- One busy read (R140), up to the assembly of `ST`. -/
def busyReadCode (c : Config) : List Op :=
  portBWrite c (readIdle c) ++ portBWrite c (readStrobe c) ++ portBRead c ++ [.let_ .latchHi]
    ++ portBWrite c (readIdle c) ++ portBWrite c (readStrobe c) ++ portBRead c ++ [.let_ .latchLo]
    ++ (match c.pollTail with
        | .none => []
        | .deassert => portBWrite c (readIdle c))
    ++ [.let_ .assemble]

/-- BUSYRD (R140): one busy read and its return. -/
def busyrdCode (c : Config) : List Op := busyReadCode c ++ [.let_ .statusReturn]

/-- The busy-poll (R142); the loop test repeats the busy read, raises the timeout or returns. -/
def busywaitCode (c : Config) : List Op := [.let_ .pollStart] ++ busyReadCode c ++ [.pollTest]

/-- The nibble pulse (R144): enable high, then the same value with enable low. -/
def pulse4Code (c : Config) (rs : Bool) (n : Nibble) : List Op :=
  portBWrite c (pulseEnable c rs n) ++ portBWrite c (pulseLatch c rs n)

/-- The five steps of a byte write (R147): busy-poll, high nibble, busy-poll, low nibble, busy-poll. -/
def lcdByteCode (c : Config) (rs : Bool) (v : Byte) : List Op :=
  busywaitCode c ++ pulse4Code c rs (hiNibble v) ++ busywaitCode c ++ pulse4Code c rs (loNibble v)
    ++ busywaitCode c

/-- `writeCommand(v)` (R146): register-select omitted. -/
def wrcmdCode (c : Config) (v : Byte) : List Op := lcdByteCode c false v

/-- `writeData(v)` (R148): register-select asserted. -/
def wrdataCode (c : Config) (v : Byte) : List Op := lcdByteCode c true v

/-- `Delay(d)` (R150). -/
def delayCode (d : Dly) : List Op := [.act (.delay d)]

/-- One mode pulse of LCD initialisation and the delay after it (R152). -/
def modePulseCode (c : Config) (n : Nibble) : List Op := pulse4Code c false n ++ delayCode .init

/-- The display clear and the delay after it (R152). -/
def clearCode (c : Config) : List Op := wrcmdCode c c.lcdClear ++ delayCode .clear

/-- LCD initialisation (R152). -/
def lcdinitCode (c : Config) : List Op :=
  delayCode .pre
    ++ modePulseCode c c.nibInitA ++ modePulseCode c c.nibInitA ++ modePulseCode c c.nibInitA
    ++ modePulseCode c c.nibInitB
    ++ wrcmdCode c c.lcdFuncset
    ++ (match c.initOrder with
        | .onThenClear => wrcmdCode c c.lcdDispon ++ clearCode c
        | .clearThenOn => clearCode c ++ wrcmdCode c c.lcdDispon)
    ++ wrcmdCode c c.lcdEntry
    ++ [.let_ .setLi]

end Sys2Proof.Machine
end

