-- ==== Sys2Proof/Machine/Flags.lean ====
section
/-! DEFINITION. The busy flag (10_state.md R33), the views in `STATUS` (R29), the registers as the host reads them
(R28 to R32), and the checks made when a command is decoded (60_exceptions.md R183 to R188, R190). -/

namespace Sys2Proof.Machine

/-- The busy flag: bit 7 of the status byte (R33, R141). -/
def busyFlag (st : Byte) : Bool := st.getLsbD 7

/-- `STATUS.BSY`: 1 while the sequencer runs a command (R29). -/
def State.bsy (s : State) : Bool :=
  match s.seq with
  | .idle => false
  | .run _ _ => true

/-- `STATUS.FLT`: 1 once a fault has been entered (R29). -/
def State.flt (s : State) : Bool := s.fc != .none

/-- `STATUS.CSA` = `~CS_N` (R29). -/
def State.csa (s : State) : Bool := !s.csN

/-- The number of a fault code (R180). -/
def FaultCode.code : FaultCode → BitVec 4
  | .none => 0
  | .illegalCmd => 1
  | .overrun => 2
  | .xferNoCs => 3
  | .nestedCs => 4
  | .endNoCs => 5
  | .notInit => 6
  | .expReinit => 7
  | .lcdReinit => 8
  | .busyTimeout => 9

/-- `STATUS` (R29): `FC` in bits 11:8, then from bit 5 down `CSA`, `FLT`, `LI`, `EI`, `RV`, `BSY`; the rest 0. -/
def State.status (s : State) : Word :=
  (0 : BitVec 20) ++ s.fc.code ++ (0 : BitVec 2) ++ BitVec.ofBool s.csa ++ BitVec.ofBool s.flt
    ++ BitVec.ofBool s.li ++ BitVec.ofBool s.ei ++ BitVec.ofBool s.rv ++ BitVec.ofBool s.bsy

/-- `RESULT` (R30): `RB` in bits 7:0, the rest 0. -/
def State.resultWord (s : State) : Word := s.rb.setWidth 32

/-! ### Checks at decode -/

/-- `NESTED_CS`: a window is open already (R184). -/
def checkNoWindow (s : State) : Option FaultCode := if s.csN then none else some .nestedCs

/-- `XFER_NO_CS`: no window is open (R183). -/
def checkXferWindow (s : State) : Option FaultCode := if s.csN then some .xferNoCs else none

/-- `END_NO_CS`: no window is open (R185). -/
def checkEndWindow (s : State) : Option FaultCode := if s.csN then some .endNoCs else none

/-- `EXP_REINIT`: the expander was initialised before (R187). -/
def checkExpFirst (s : State) : Option FaultCode := if s.ei then some .expReinit else none

/-- `LCD_REINIT`: the LCD was initialised before (R188). -/
def checkLcdFirst (s : State) : Option FaultCode := if s.li then some .lcdReinit else none

/-- `NOT_INIT`: the expander was not initialised (R186). -/
def checkExpReady (s : State) : Option FaultCode := if s.ei then none else some .notInit

/-- The first check that fails, in the order given (R190). -/
def firstFault : List (Option FaultCode) → Option FaultCode
  | [] => none
  | some c :: _ => some c
  | none :: rest => firstFault rest

/-- The checks of an LCD command: `NOT_INIT`, then `NESTED_CS` (R190). -/
def checkLcd (s : State) : Option FaultCode := firstFault [checkExpReady s, checkNoWindow s]

end Sys2Proof.Machine
end

