-- ==== Sys2Proof/Machine/Ops.lean ====
section
/-! DEFINITION. The operations every command shares: pins (10_state.md R22), draws of data-in (R38), fault entry
(60_exceptions.md R191) and reset (70_reset_and_hazards.md R210) beside it, the sequencer's step (R25), and the
acceptance of a command word (R41, R190). -/

namespace Sys2Proof.Machine

/-! ### Trace and pins -/

/-- Append one event (R34). -/
def emit (e : Event) (s : State) : State := { s with trace := s.trace ++ [e] }

/-- Write the level of an output pin (R22). -/
def setLevel (p : OutPin) (v : Bool) (s : State) : State :=
  match p with
  | .cs => { s with csN := v }
  | .sck => { s with sck := v }
  | .mosi => { s with mosi := v }

/-- `PinSet(p)` (R14). -/
def pinSet (p : OutPin) (s : State) : State := emit (.set p) (setLevel p true s)

/-- `PinClear(p)` (R14). -/
def pinClear (p : OutPin) (s : State) : State := emit (.clear p) (setLevel p false s)

/-! ### Data-in -/

/-- The level that the sample `j` samples from now will draw: from the environment's list, and past its end a free
value (R38). -/
def State.misoAt (s : State) (j : Nat) : Bool :=
  match s.miso[j]? with
  | some b => b
  | none => Config.misoDraw (s.drawn + j)

/-- The state after `n` samples were drawn. -/
def State.afterDraws (s : State) (n : Nat) : State := { s with miso := s.miso.drop n, drawn := s.drawn + n }

/-- XFER's sample: `b <- PinRead(PIN_MISO)`, then `XI <- ((XI << 1) | b) mod 256` (R14, R102). -/
def sampleMiso (s : State) : State :=
  emit (.read (s.misoAt 0)) { s.afterDraws 1 with xi := shiftIn s.xi (s.misoAt 0) }

/-- XFER's drive: the bit `XB` of `XO` onto `PIN_MOSI`, by exactly one event (R102). -/
def driveMosi (s : State) : State := if s.xo.getLsbD s.xb.toNat then pinSet .mosi s else pinClear .mosi s

/-! ### Temporaries -/

/-- Outside an XFER its temporaries are unspecified (R26): they take free values. -/
def forgetXfer (s : State) : State :=
  { s with xo := Config.freeXo s.fresh, xi := Config.freeXi s.fresh, xb := Config.freeXb s.fresh, fresh := s.fresh + 1 }

/-- Outside a busy read or busy-poll its temporaries are unspecified (R27, R210): they take free values. -/
def forgetPoll (s : State) : State :=
  { s with hi := Config.freeHi s.fresh, lo := Config.freeLo s.fresh, st := Config.freeSt s.fresh,
           nb := Config.freeNb s.fresh, fresh := s.fresh + 1 }

/-! ### Fault entry and reset -/

/-- Fault entry (R191) with code `c` for the command word `w`: the one way into the fault state. The clock is taken
low if it is high, chip-select is deasserted if it is asserted, and the sequencer stops. -/
def faultEntry (c : FaultCode) (w : Word) (s : State) : State :=
  let entered := emit (.fault c w) { s with fc := c, fcmd := w }
  let clockLow := if entered.sck then pinClear .sck entered else entered
  let deasserted := if clockLow.csN then clockLow else pinSet .cs clockLow
  { forgetPoll (forgetXfer deasserted) with seq := .idle }

/-- Reset (R210, R211): the one way out of the fault state (R193). The block's state takes its reset values and the
three pins are driven idle, each by an event. The trace, the configuration, the environment and the host are not the
block's to clear. -/
def doReset (s : State) : State :=
  { State.reset with
    cfg := s.cfg, trace := s.trace ++ resetEvents, miso := s.miso, drawn := s.drawn, fresh := s.fresh,
    host := s.host, reads := s.reads }

/-! ### The sequencer -/

/-- The pseudocode's assignments. -/
def assign (a : Assign) (s : State) : State :=
  match a with
  | .xferStart d => { s with xo := d, xi := 0 }
  | .bit i => { s with xb := i }
  | .xferReturn => forgetXfer { s with ret := s.xi }
  | .latchHi => { s with hi := dataNibble s.ret }
  | .latchLo => { s with lo := dataNibble s.ret }
  | .assemble => { s with st := assembleStatus s.hi s.lo }
  | .statusReturn => forgetPoll { s with ret := s.st }
  | .pollStart => { s with nb := 0 }
  | .setEi => { s with ei := true }
  | .setLi => { s with li := true }
  | .result => { s with rb := s.ret, rv := true }

/-- Whether a busy-poll that has done `n` busy reads has reached a finite `BUSY_LIMIT` (R142). -/
def limitReached (c : Config) (n : Nat) : Bool :=
  match c.busyLimit with
  | none => false
  | some l => l ≤ n

/-- The command `w` completes: `SEQ <- Idle`, with the event `Done(w)` (R25, R34). -/
def complete (w : Word) (s : State) : State := emit (.done w) { s with seq := .idle }

/-- Do the assignments and loop tests that stand before the next primitive of `k`, and leave the sequencer at that
primitive, or complete the command if there is none (R25).

The loop test (R142) counts the busy read, then returns the status if it is not busy, raises `BUSY_TIMEOUT` at a finite
limit, and else goes round the loop. -/
def settle (w : Word) : List Op → State → State
  | [], s => complete w s
  | .act p :: k, s => { s with seq := .run w (.act p :: k) }
  | .let_ a :: k, s => settle w k (assign a s)
  | .pollTest :: k, s =>
    if busyFlag s.st then
      if limitReached s.cfg (s.nb + 1) then
        { s with nb := s.nb + 1, seq := .run w (.act (.raise .busyTimeout) :: k) }
      else
        { s with nb := s.nb + 1, seq := .run w (busyReadCode s.cfg ++ .pollTest :: k) }
    else settle w k (forgetPoll { s with nb := s.nb + 1, ret := s.st })

/-- Carry out one primitive of the command `w` (R14). -/
def carryOut (w : Word) (p : Prim) (s : State) : State :=
  match p with
  | .set q => pinSet q s
  | .clear q => pinClear q s
  | .drive => driveMosi s
  | .sample => sampleMiso s
  | .delay d => emit (.delay d) s
  | .raise c => faultEntry c w s

/-- One step of a running command: its next primitive, and then the assignments up to the one after it (R25). A raised
fault ends the command (R191). -/
def advance (w : Word) (k : List Op) (s : State) : State :=
  match k with
  | .act (.raise c) :: _ => faultEntry c w s
  | .act p :: rest => settle w rest (carryOut w p s)
  | k => settle w k s

/-- The block's step: none while it is stopped by a fault (R193) or idle (R210), else one of the running command. -/
def blockTurn (s : State) : State :=
  if s.flt then s
  else
    match s.seq with
    | .idle => s
    | .run w k => advance w k s

/-- `n` steps of the block. -/
def turns : Nat → State → State
  | 0, s => s
  | n + 1, s => turns n (blockTurn s)

/-! ### Acceptance of a command word -/

/-- The word is accepted: `Issue(w)`, `SEQ <- Run(w, k)` (R41). -/
def issue (w : Word) (k : List Op) (s : State) : State := { emit (.issue w) s with seq := .run w k }

/-- A write of the word `w` to `CMD` (R41, R190): ignored in the fault state, `OVERRUN` while a command runs, else
issued. The fault of the first failing check, if any, is entered before the first primitive; otherwise the sequencer
stands at the first primitive of the pseudocode `k`. -/
def accept (w : Word) (check : Option FaultCode) (k : List Op) (s : State) : State :=
  if s.flt then s
  else if s.bsy then faultEntry .overrun w s
  else
    match check with
    | some c => faultEntry c w (issue w k s)
    | none => settle w k (issue w k s)

end Sys2Proof.Machine
end

