-- ==== Sys2Proof/Machine/Expander.lean ====
section
/-! DEFINITION. The expander register commands: RDREG, WRREG, EXPINIT, GETBTN (41_expander.md). -/

namespace Sys2Proof.Machine

/-- `RDREG a` (R120). -/
def execRdreg (a : Byte) (s : State) : Host.Outcome State Fault Refusal :=
  .next (accept (encode (.rdreg a)) (checkNoWindow s) (rdregCode s.cfg a ++ [.let_ .result]) s)

/-- `WRREG a, v` (R122). -/
def execWrreg (a v : Byte) (s : State) : Host.Outcome State Fault Refusal :=
  .next (accept (encode (.wrreg a v)) (checkNoWindow s) (wrregCode s.cfg a v) s)

/-- `EXPINIT` (R124): `EXP_REINIT` before `NESTED_CS` (R190). -/
def execExpinit (s : State) : Host.Outcome State Fault Refusal :=
  .next (accept (encode .expinit) (firstFault [checkExpFirst s, checkNoWindow s]) (expinitCode s.cfg) s)

/-- `GETBTN` (R126). -/
def execGetbtn (s : State) : Host.Outcome State Fault Refusal :=
  .next (accept (encode .getbtn) (checkNoWindow s) (getbtnCode s.cfg ++ [.let_ .result]) s)

end Sys2Proof.Machine
end

