-- ==== Sys2Proof/Machine/Lcd.lean ====
section
/-! DEFINITION. The LCD protocol engine's commands: BUSYRD, BUSYWAIT, PULSE4, WRCMD, WRDATA, LCDINIT, DELAY
(42_lcd.md). -/

namespace Sys2Proof.Machine

/-- `BUSYRD` (R140). -/
def execBusyrd (s : State) : Host.Outcome State Fault Refusal :=
  .next (accept (encode .busyrd) (checkLcd s) (busyrdCode s.cfg ++ [.let_ .result]) s)

/-- `BUSYWAIT` (R142). -/
def execBusywait (s : State) : Host.Outcome State Fault Refusal :=
  .next (accept (encode .busywait) (checkLcd s) (busywaitCode s.cfg ++ [.let_ .result]) s)

/-- `PULSE4 rs, n` (R144). -/
def execPulse4 (rs : Bool) (n : Nibble) (s : State) : Host.Outcome State Fault Refusal :=
  .next (accept (encode (.pulse4 rs n)) (checkLcd s) (pulse4Code s.cfg rs n) s)

/-- `WRCMD c` (R146). -/
def execWrcmd (c : Byte) (s : State) : Host.Outcome State Fault Refusal :=
  .next (accept (encode (.wrcmd c)) (checkLcd s) (wrcmdCode s.cfg c) s)

/-- `WRDATA d` (R148). -/
def execWrdata (d : Byte) (s : State) : Host.Outcome State Fault Refusal :=
  .next (accept (encode (.wrdata d)) (checkLcd s) (wrdataCode s.cfg d) s)

/-- `LCDINIT` (R152): `LCD_REINIT`, then `NOT_INIT`, then `NESTED_CS` (R190). -/
def execLcdinit (s : State) : Host.Outcome State Fault Refusal :=
  .next (accept (encode .lcdinit) (firstFault [checkLcdFirst s, checkLcd s]) (lcdinitCode s.cfg) s)

/-- `DELAY s` (R150); the selector 3 is illegal (R90). -/
def execDelay (sel : BitVec 2) (s : State) : Host.Outcome State Fault Refusal :=
  match delayOf sel with
  | some d => .next (accept (encode (.delay sel)) none (delayCode d) s)
  | none => .next (accept (encode (.delay sel)) (some .illegalCmd) [] s)

end Sys2Proof.Machine
end

