-- ==== Sys2Proof/Machine/Transport.lean ====
section
/-! DEFINITION. The bit-bang transport's commands: BEGIN, END, XFER (40_transport.md).

A command's meaning is a write of its word to `CMD` (10_state.md R41): the checks of 60_exceptions.md R190, and then
either the entry of the first fault that applies or the start of the command's pseudocode, which the block's steps carry
out one primitive each (R25). -/

namespace Sys2Proof.Machine

/-- `BEGIN` (R100). -/
def execBegin (s : State) : Host.Outcome State Fault Refusal :=
  .next (accept (encode .beginCs) (checkNoWindow s) beginCode s)

/-- `END` (R101). -/
def execEnd (s : State) : Host.Outcome State Fault Refusal :=
  .next (accept (encode .endCs) (checkEndWindow s) endCode s)

/-- `XFER d` (R102). -/
def execXfer (d : Byte) (s : State) : Host.Outcome State Fault Refusal :=
  .next (accept (encode (.xfer d)) (checkXferWindow s) (xferCode d ++ [.let_ .result]) s)

end Sys2Proof.Machine
end

