-- ==== Sys2Proof/Machine/Dispatch.lean ====
section
/-! DEFINITION. The meaning of a command: one arm a constructor. -/

namespace Sys2Proof.Machine

/-- The host writes the word of command `i` to `CMD` (R41). -/
def exec (i : Instr) (s : State) : Host.Outcome State Fault Refusal :=
  match i with
  | .beginCs => Sys2Proof.Machine.execBegin s
  | .endCs => Sys2Proof.Machine.execEnd s
  | .xfer d => Sys2Proof.Machine.execXfer d s
  | .rdreg a => Sys2Proof.Machine.execRdreg a s
  | .wrreg a v => Sys2Proof.Machine.execWrreg a v s
  | .expinit => Sys2Proof.Machine.execExpinit s
  | .getbtn => Sys2Proof.Machine.execGetbtn s
  | .busyrd => Sys2Proof.Machine.execBusyrd s
  | .busywait => Sys2Proof.Machine.execBusywait s
  | .pulse4 rs n => Sys2Proof.Machine.execPulse4 rs n s
  | .wrcmd c => Sys2Proof.Machine.execWrcmd c s
  | .wrdata d => Sys2Proof.Machine.execWrdata d s
  | .lcdinit => Sys2Proof.Machine.execLcdinit s
  | .delay sel => Sys2Proof.Machine.execDelay sel s

end Sys2Proof.Machine
end

