-- ==== Sys2Proof/Machine/HostPort.lean ====
section
/-! DEFINITION. The host port (10_state.md R28, R40, R41) and the machine's cycle: a turn of the host, or of the block
(log entry 6). -/

namespace Sys2Proof.Machine

/-- The offset of `CMD` (R28). -/
def cmdOffset : Nat := 0x0

/-- The offset of `STATUS` (R28). -/
def statusOffset : Nat := 0x4

/-- The offset of `RESULT` (R28). -/
def resultOffset : Nat := 0x8

/-- The offset of `FCMD` (R28). -/
def fcmdOffset : Nat := 0xC

/-- A write of `CMD` (R41): the decoder gives the word's command, which is carried out, or finds it illegal, which
raises `ILLEGAL_CMD` where nothing goes before it (R181, R190). -/
def writeCmd (w : Word) (s : State) : Host.Outcome State Fault Refusal :=
  match decode w with
  | .ok i => exec i s
  | .error _ => .next (accept w (some .illegalCmd) [] s)

/-- A host write (R28): `CMD` takes a command, the read-only registers ignore it, anything else is refused. -/
def hostWrite (offset width : Nat) (v : Word) (s : State) : Host.Outcome State Fault Refusal :=
  if width ≠ 32 then .refused (.accessWidth width)
  else if offset = cmdOffset then writeCmd v s
  else if offset = statusOffset ∨ offset = resultOffset ∨ offset = fcmdOffset then .next s
  else .refused (.outOfPort offset)

/-- The host gets back `v` for its read at `offset` (R40). -/
def answer (offset : Nat) (v : Word) (s : State) : Host.Outcome State Fault Refusal :=
  .next { s with reads := s.reads ++ [(offset, v)] }

/-- A host read (R28): `CMD` reads 0; `RESULT` has a value only when `RV` = 1 (R43). -/
def hostRead (offset width : Nat) (s : State) : Host.Outcome State Fault Refusal :=
  if width ≠ 32 then .refused (.accessWidth width)
  else if offset = cmdOffset then answer offset 0 s
  else if offset = statusOffset then answer offset s.status s
  else if offset = resultOffset then if s.rv then answer offset s.resultWord s else .fault .resultHasNoValue
  else if offset = fcmdOffset then answer offset s.fcmd s
  else .refused (.outOfPort offset)

/-- A turn of the host (R40); when it pauses, the block takes its step. -/
def hostTurn (op : HostOp) (s : State) : Host.Outcome State Fault Refusal :=
  match op with
  | .pause => .next (blockTurn s)
  | .write offset width v => hostWrite offset width v s
  | .read offset width => hostRead offset width s
  | .reset => .next (doReset s)

/-- One step of the machine: the host's next turn, or the block's step when the host has none. An ill-formed
configuration is refused (R8). -/
def cycle (s : State) : Host.Outcome State Fault Refusal :=
  if s.cfg.wf then
    match s.host with
    | [] => .next (blockTurn s)
    | op :: rest => hostTurn op { s with host := rest }
  else .refused .illFormedConfig

/-- The state in which the host's next turn writes the word `w` to `CMD` and the block is free to accept it. -/
def placeCommand (w : Word) (s : State) : State :=
  { s with host := .write cmdOffset 32 w :: s.host, seq := .idle, fc := .none }

end Sys2Proof.Machine
end

