-- ==== Sys2Proof/Machine/Views.lean ====
section
/-! DEFINITION. The views of a trace: pin events, the frame view (10_state.md R35), the port B view (42_lcd.md R154), the
platform's pins (R21), and the events that bytes, frames and port B transactions make (30_encoding.md R84, R85). -/

namespace Sys2Proof.Machine

/-! ### Pin events -/

/-- The events that appear on a pin (R34). -/
def Event.onPin : Event → Bool
  | .set _ => true
  | .clear _ => true
  | .read _ => true
  | .delay _ => false
  | .issue _ => false
  | .done _ => false
  | .fault _ _ => false
  | .reset => false

/-- The pin events of a trace, in order (R34): what the protocol must reproduce bit for bit. -/
def pinEvents (t : List Event) : List Event := t.filter Event.onPin

/-- The number of pin events of a trace (R231). -/
def pinCount (t : List Event) : Nat := (pinEvents t).length

/-! ### Frame view -/

/-- The out byte and the in byte of one XFER. -/
abbrev Exchange := Byte × Byte

/-- One chip-select window as its XFERs, in order (R84). -/
abbrev Frame := List Exchange

/-- The reader of the frame view: the closed windows, the open window if any, and the bit cells seen of the byte under
way in it. -/
structure FrameReader where
  /-- The windows closed so far. -/
  closed : List Frame
  /-- The exchanges of the open window. -/
  window : Option Frame
  /-- The bits driven on data-out in the byte under way. -/
  out : Byte
  /-- The bits sampled from data-in in the byte under way. -/
  inp : Byte
  /-- The level last driven on data-out. -/
  mosi : Bool
  /-- The level last sampled from data-in. -/
  miso : Bool
  /-- The bit cells of the byte under way that are complete. -/
  cells : Nat
deriving DecidableEq, Repr

/-- The reader before any event. -/
def FrameReader.start : FrameReader :=
  { closed := [], window := none, out := 0, inp := 0, mosi := false, miso := false, cells := 0 }

/-- A bit cell ends: its two bits join the byte under way, and every eighth cell completes an exchange. -/
def FrameReader.cell (v : FrameReader) : FrameReader :=
  match v.window with
  | none => v
  | some f =>
    let out := shiftIn v.out v.mosi
    let inp := shiftIn v.inp v.miso
    if v.cells = 7 then { v with window := some (f ++ [(out, inp)]), out := 0, inp := 0, cells := 0 }
    else { v with out := out, inp := inp, cells := v.cells + 1 }

/-- The byte under way is cut: its bit cells are no whole XFER (R35). -/
def FrameReader.cut (v : FrameReader) : FrameReader := { v with out := 0, inp := 0, cells := 0 }

/-- Read one event: chip-select opens and closes windows (R35), and a bit cell ends when the clock falls (R85).

A fault or a reset cuts the byte under way, at any of its 32 events: R35 takes events made by one XFER, and the
`Clear(PIN_SCK)` that fault entry or reset drives is not the XFER's (R191, R210). So a byte cut after `Set(PIN_SCK)` of its
bit 0 is left out like any other (DEDUCED, log entry 25). -/
def FrameReader.read (v : FrameReader) (e : Event) : FrameReader :=
  match e with
  | .clear .cs => { v with window := some [], out := 0, inp := 0, cells := 0 }
  | .set .cs =>
    match v.window with
    | none => v
    | some f => { v with closed := v.closed ++ [f], window := none, out := 0, inp := 0, cells := 0 }
  | .set .mosi => { v with mosi := true }
  | .clear .mosi => { v with mosi := false }
  | .read b => { v with miso := b }
  | .set .sck => v
  | .clear .sck => v.cell
  | .delay _ => v
  | .issue _ => v
  | .done _ => v
  | .fault _ _ => v.cut
  | .reset => v.cut

/-- The frame view of a trace (R35): its closed windows, in order. A window that a fault or a reset closes shows the
exchanges it had complete (log entry 25). -/
def frames (t : List Event) : List Frame := (t.foldl FrameReader.read FrameReader.start).closed

/-! ### Port B view -/

/-- An entry of the port B view (R154). -/
inductive PortB where
  /-- `W(v)`: a write of port B. -/
  | w (v : Byte)
  /-- `R(r)`: a read of port B. -/
  | r (v : Byte)
deriving DecidableEq, Repr

/-- The port B entry of a window, if it is one (R154). -/
def portBOf (c : Config) : Frame → Option PortB
  | [(opc, _), (a, _), (v, r)] =>
    if a = c.regGpiob then
      if opc = c.opcWrite then some (.w v)
      else if opc = c.opcRead ∧ v = c.dummy then some (.r r)
      else none
    else none
  | _ => none

/-- The port B view of a trace (R154). A port B transaction whose third byte was cut shows no entry (log entry 25). -/
def portBView (c : Config) (t : List Event) : List PortB := (frames t).filterMap (portBOf c)

/-! ### The events of the protocol's units -/

/-- The four events of a bit cell that drives `o` and samples `i` (R85). -/
def cellEvents (o i : Bool) : List Event := [if o then .set .mosi else .clear .mosi, .read i, .set .sck, .clear .sck]

/-- The bits of a byte, bit 7 first (R65). -/
def bitsOf (b : Byte) : List Bool :=
  [b.getLsbD 7, b.getLsbD 6, b.getLsbD 5, b.getLsbD 4, b.getLsbD 3, b.getLsbD 2, b.getLsbD 1, b.getLsbD 0]

/-- The 32 events of an exchange (R85). -/
def exchangeEvents (x : Exchange) : List Event :=
  ((bitsOf x.1).zip (bitsOf x.2)).flatMap fun p => cellEvents p.1 p.2

/-- The events of a whole window (R35, R85). -/
def frameEvents (f : Frame) : List Event := [.clear .cs] ++ f.flatMap exchangeEvents ++ [.set .cs]

/-- The byte that the eight samples from the `j`th on will draw, first draw as bit 7 (R103). -/
def State.misoByte (s : State) (j : Nat) : Byte :=
  byteOfDraws [s.misoAt j, s.misoAt (j + 1), s.misoAt (j + 2), s.misoAt (j + 3),
    s.misoAt (j + 4), s.misoAt (j + 5), s.misoAt (j + 6), s.misoAt (j + 7)]

/-- The write frame `Wf(a, v)` (R84), whose samples start `j` draws from now. -/
def State.writeFrame (s : State) (j : Nat) (a v : Byte) : Frame :=
  [(s.cfg.opcWrite, s.misoByte j), (a, s.misoByte (j + 8)), (v, s.misoByte (j + 16))]

/-- The read frame `Rf(a)` (R84), whose samples start `j` draws from now. -/
def State.readFrame (s : State) (j : Nat) (a : Byte) : Frame :=
  [(s.cfg.opcRead, s.misoByte j), (a, s.misoByte (j + 8)), (s.cfg.dummy, s.misoByte (j + 16))]

/-- The value a read frame whose samples start `j` draws from now reads: its third in byte (R84). -/
def State.readValue (s : State) (j : Nat) : Byte := s.misoByte (j + 16)

/-! ### The frames of the LCD engine's units

Each is given by the draw its first sample makes: `j` samples from now. -/

/-- The draws one busy read makes: 24 for each of its transactions (R121, R140). -/
def busyReadDraws (c : Config) : Nat :=
  match c.pollTail with
  | .none => 144
  | .deassert => 168

/-- The pin events one busy read makes, `T` of rule R231. -/
def busyReadEvents (c : Config) : Nat :=
  match c.pollTail with
  | .none => 588
  | .deassert => 686

/-- The frames of one busy read (R140). -/
def State.busyReadFrames (s : State) (j : Nat) : List Frame :=
  [ s.writeFrame j s.cfg.regGpiob (readIdle s.cfg),
    s.writeFrame (j + 24) s.cfg.regGpiob (readStrobe s.cfg),
    s.readFrame (j + 48) s.cfg.regGpiob,
    s.writeFrame (j + 72) s.cfg.regGpiob (readIdle s.cfg),
    s.writeFrame (j + 96) s.cfg.regGpiob (readStrobe s.cfg),
    s.readFrame (j + 120) s.cfg.regGpiob ]
    ++ (match s.cfg.pollTail with
        | .none => []
        | .deassert => [s.writeFrame (j + 144) s.cfg.regGpiob (readIdle s.cfg)])

/-- The status byte one busy read assembles (R140): the data nibbles of its two port B reads. -/
def State.busyStatus (s : State) (j : Nat) : Byte :=
  assembleStatus (dataNibble (s.readValue (j + 48))) (dataNibble (s.readValue (j + 120)))

/-- The frames of `k` busy reads one after the other (R142). -/
def State.pollFrames (s : State) (j : Nat) : Nat → List Frame
  | 0 => []
  | k + 1 => s.busyReadFrames j ++ s.pollFrames (j + busyReadDraws s.cfg) k

/-- The first `k` busy reads from draw `j` on all find the LCD busy. -/
def State.busyFor (s : State) (j : Nat) : Nat → Bool
  | 0 => true
  | k + 1 => busyFlag (s.busyStatus j) && s.busyFor (j + busyReadDraws s.cfg) k

/-- A busy-poll from draw `j` on ends with its `k + 1`st busy read, the first to find the LCD not busy, within the limit
(R143). -/
def State.pollEnds (s : State) (j k : Nat) : Bool :=
  s.busyFor j k && !busyFlag (s.busyStatus (j + k * busyReadDraws s.cfg)) && !limitReached s.cfg k

/-- The frames of a nibble pulse (R144). -/
def State.pulseFrames (s : State) (j : Nat) (rs : Bool) (n : Nibble) : List Frame :=
  [s.writeFrame j s.cfg.regGpiob (pulseEnable s.cfg rs n), s.writeFrame (j + 24) s.cfg.regGpiob (pulseLatch s.cfg rs n)]

/-- How many busy reads find the LCD busy in each of the three busy-polls of one byte write. -/
structure BytePlan where
  /-- In the busy-poll before the high nibble. -/
  first : Nat
  /-- In the busy-poll between the nibbles. -/
  second : Nat
  /-- In the busy-poll after the low nibble. -/
  third : Nat
deriving DecidableEq, Repr

/-- The busy reads of a byte write: each busy-poll's busy ones and the one that ends it. -/
def BytePlan.reads (p : BytePlan) : Nat := p.first + 1 + (p.second + 1) + (p.third + 1)

/-- The draw that the second busy-poll of a byte write starts at: after the first busy-poll and a pulse. -/
def BytePlan.secondAt (c : Config) (p : BytePlan) (j : Nat) : Nat := j + (p.first + 1) * busyReadDraws c + 48

/-- The draw that the third busy-poll of a byte write starts at. -/
def BytePlan.thirdAt (c : Config) (p : BytePlan) (j : Nat) : Nat :=
  p.secondAt c j + (p.second + 1) * busyReadDraws c + 48

/-- The draw after a byte write. -/
def BytePlan.endAt (c : Config) (p : BytePlan) (j : Nat) : Nat := p.thirdAt c j + (p.third + 1) * busyReadDraws c

/-- The pin events of a byte write (R231). -/
def BytePlan.events (c : Config) (p : BytePlan) : Nat := 392 + p.reads * busyReadEvents c

/-- The three busy-polls of a byte write from draw `j` on end as the plan says. -/
def State.byteEnds (s : State) (j : Nat) (p : BytePlan) : Bool :=
  s.pollEnds j p.first && s.pollEnds (p.secondAt s.cfg j) p.second && s.pollEnds (p.thirdAt s.cfg j) p.third

/-- The frames of a byte write (R147): busy-poll, high nibble, busy-poll, low nibble, busy-poll. -/
def State.byteFrames (s : State) (j : Nat) (rs : Bool) (v : Byte) (p : BytePlan) : List Frame :=
  s.pollFrames j (p.first + 1)
    ++ s.pulseFrames (j + (p.first + 1) * busyReadDraws s.cfg) rs (hiNibble v)
    ++ s.pollFrames (p.secondAt s.cfg j) (p.second + 1)
    ++ s.pulseFrames (p.secondAt s.cfg j + (p.second + 1) * busyReadDraws s.cfg) rs (loNibble v)
    ++ s.pollFrames (p.thirdAt s.cfg j) (p.third + 1)

/-- The events of frames one after the other. -/
def framesEvents (fs : List Frame) : List Event := fs.flatMap frameEvents

/-- The bit a busy read leaves on data-out: bit 0 of the last byte it sends (R104). -/
def mosiAfterBusyRead (c : Config) : Bool :=
  match c.pollTail with
  | .none => c.dummy.getLsbD 0
  | .deassert => (readIdle c).getLsbD 0

/-- How the busy-polls of the four byte writes of LCD initialisation end (R152). -/
structure InitPlan where
  /-- Those of the function-set command. -/
  funcset : BytePlan
  /-- Those of the second command, display-on or clear (`INIT_ORDER`). -/
  second : BytePlan
  /-- Those of the third command, clear or display-on. -/
  third : BytePlan
  /-- Those of the entry-mode command. -/
  entry : BytePlan
deriving DecidableEq, Repr

/-- The draw the second command of LCD initialisation starts at; the first follows four pulses of 48 draws. -/
def InitPlan.secondAt (c : Config) (p : InitPlan) : Nat := p.funcset.endAt c 192

/-- The draw the third command starts at. -/
def InitPlan.thirdAt (c : Config) (p : InitPlan) : Nat := p.second.endAt c (p.secondAt c)

/-- The draw the fourth command starts at. -/
def InitPlan.entryAt (c : Config) (p : InitPlan) : Nat := p.third.endAt c (p.thirdAt c)

/-- The primitives of LCD initialisation: its pin events and six delays (R231). -/
def InitPlan.steps (c : Config) (p : InitPlan) : Nat :=
  784 + 6 + p.funcset.events c + p.second.events c + p.third.events c + p.entry.events c

/-- The busy-polls of LCD initialisation end as the plan says. -/
def State.initEnds (s : State) (p : InitPlan) : Bool :=
  s.byteEnds 192 p.funcset && s.byteEnds (p.secondAt s.cfg) p.second && s.byteEnds (p.thirdAt s.cfg) p.third
    && s.byteEnds (p.entryAt s.cfg) p.entry

/-- The events of one mode pulse and the delay after it (R152). -/
def State.modePulseEvents (s : State) (j : Nat) (n : Nibble) : List Event :=
  framesEvents (s.pulseFrames j false n) ++ [.delay .init]

/-- The events of the two commands that `INIT_ORDER` orders, the clear followed by its delay (R152). -/
def State.orderedEvents (s : State) (p : InitPlan) : List Event :=
  match s.cfg.initOrder with
  | .onThenClear =>
    framesEvents (s.byteFrames (p.secondAt s.cfg) false s.cfg.lcdDispon p.second)
      ++ framesEvents (s.byteFrames (p.thirdAt s.cfg) false s.cfg.lcdClear p.third) ++ [.delay .clear]
  | .clearThenOn =>
    framesEvents (s.byteFrames (p.secondAt s.cfg) false s.cfg.lcdClear p.second) ++ [.delay .clear]
      ++ framesEvents (s.byteFrames (p.thirdAt s.cfg) false s.cfg.lcdDispon p.third)

/-- The events of LCD initialisation (R152). -/
def State.initEvents (s : State) (p : InitPlan) : List Event :=
  [.delay .pre]
    ++ s.modePulseEvents 0 s.cfg.nibInitA ++ s.modePulseEvents 48 s.cfg.nibInitA ++ s.modePulseEvents 96 s.cfg.nibInitA
    ++ s.modePulseEvents 144 s.cfg.nibInitB
    ++ framesEvents (s.byteFrames 192 false s.cfg.lcdFuncset p.funcset)
    ++ s.orderedEvents p
    ++ framesEvents (s.byteFrames (p.entryAt s.cfg) false s.cfg.lcdEntry p.entry)

/-! ### Platform view -/

/-- A pin event or delay in the platform's terms: pin identifiers and durations in place of their names (R21, R7). -/
inductive PlatformEvent where
  /-- The platform pin was driven high. -/
  | set (pin : Nat)
  /-- The platform pin was driven low. -/
  | clear (pin : Nat)
  /-- The platform pin was sampled. -/
  | read (pin : Nat) (b : Bool)
  /-- A wait of the given duration. -/
  | delay (duration : Nat)
deriving DecidableEq, Repr

/-- The platform pin of an output (R21). -/
def Config.pinOf (c : Config) : OutPin → Nat
  | .cs => c.pinCs
  | .sck => c.pinSck
  | .mosi => c.pinMosi

/-- The duration of a delay (R7). -/
def Config.durationOf (c : Config) : Dly → Nat
  | .pre => c.dlyPre
  | .init => c.dlyInit
  | .clear => c.dlyClear

/-- An event in the platform's terms; bookkeeping events appear on no pin (R34). -/
def platformEvent (c : Config) : Event → Option PlatformEvent
  | .set p => some (.set (Config.pinOf c p))
  | .clear p => some (.clear (Config.pinOf c p))
  | .read b => some (.read c.pinMiso b)
  | .delay d => some (.delay (Config.durationOf c d))
  | .issue _ => none
  | .done _ => none
  | .fault _ _ => none
  | .reset => none

/-- A trace as the platform's pins see it. -/
def platformView (c : Config) (t : List Event) : List PlatformEvent := t.filterMap (platformEvent c)

end Sys2Proof.Machine
end

