-- ==== Sys2Proof/Safety.lean ====
section
/-! DEFINITION. What claims about a run speak of: the visible part of a state, when a run is over (10_state.md R44), and
the invariant of every step. -/

namespace Sys2Proof.Machine

/-! ### The visible part of a state -/

/-- All of a state but the temporaries, whose values outside their use are unspecified (R26, R27), the model's counters and
the environment's draws: pins, flags, sequencer, host registers, trace, configuration and the host's lists. -/
structure Visible where
  /-- `CS_N`. -/
  csN : Bool
  /-- `SCK`. -/
  sck : Bool
  /-- `MOSI`. -/
  mosi : Bool
  /-- `EI`. -/
  ei : Bool
  /-- `LI`. -/
  li : Bool
  /-- `SEQ`. -/
  seq : Seq
  /-- `RESULT.RB`. -/
  rb : Byte
  /-- `STATUS.RV`. -/
  rv : Bool
  /-- `STATUS.FC`. -/
  fc : FaultCode
  /-- `FCMD`. -/
  fcmd : Word
  /-- The trace. -/
  trace : List Event
  /-- The configuration. -/
  cfg : Config
  /-- The host's coming turns. -/
  host : List HostOp
  /-- What the host's reads returned. -/
  reads : List (Nat × Word)
deriving DecidableEq, Repr

/-- The visible part of a state. -/
def State.visible (s : State) : Visible where
  csN := s.csN
  sck := s.sck
  mosi := s.mosi
  ei := s.ei
  li := s.li
  seq := s.seq
  rb := s.rb
  rv := s.rv
  fc := s.fc
  fcmd := s.fcmd
  trace := s.trace
  cfg := s.cfg
  host := s.host
  reads := s.reads

/-- The visible effect of accepting the word `w` (R41), before anything is done for it. -/
def Visible.issued (v : Visible) (w : Word) : Visible := { v with trace := v.trace ++ [.issue w] }

/-- The visible effect of fault entry (R191): the code and the word are recorded, the clock is taken low if it was high and
chip-select is deasserted if it was asserted, and the sequencer is idle; all else stays. -/
def Visible.faulted (v : Visible) (c : FaultCode) (w : Word) : Visible :=
  { v with
    fc := c, fcmd := w, sck := false, csN := true, seq := .idle,
    trace := v.trace ++ [.fault c w] ++ (if v.sck then [.clear .sck] else []) ++ (if v.csN then [] else [.set .cs]) }

/-- `BSY` = 0 and `FLT` = 0: the block accepts a command word (R40, R41). -/
abbrev State.ready (s : State) : Prop := s.fc = .none ∧ s.seq = .idle

/-! ### How a command goes -/

/-- The command `i`, written in state `s`, is accepted and completes: it takes exactly `n` steps of the block, after which
the visible state is `v` and `draws` samples have been drawn. -/
def Completes (i : Instr) (s : State) (n : Nat) (v : Visible) (draws : Nat) : Prop :=
  ∃ u, exec i s = .next u ∧ (∀ m < n, (turns m u).bsy = true) ∧ (turns n u).visible = v
    ∧ ∀ j, (turns n u).misoAt j = s.misoAt (draws + j)

/-- The command `i`, written in state `s`, is accepted and its checks raise the fault `c` before its first primitive. -/
def FaultsAtDecode (i : Instr) (s : State) (c : FaultCode) : Prop :=
  ∃ t, exec i s = .next t ∧ t.visible = (s.visible.issued (encode i)).faulted c (encode i)

/-- The commands that need `EI` = 1 (R186). -/
def Instr.isLcd : Instr → Bool
  | .beginCs => false
  | .endCs => false
  | .xfer _ => false
  | .rdreg _ => false
  | .wrreg _ _ => false
  | .expinit => false
  | .getbtn => false
  | .busyrd => true
  | .busywait => true
  | .pulse4 _ _ => true
  | .wrcmd _ => true
  | .wrdata _ => true
  | .lcdinit => true
  | .delay _ => false

/-- The commands that open a window (R184). -/
def Instr.opensWindow : Instr → Bool
  | .beginCs => true
  | .endCs => false
  | .xfer _ => false
  | .rdreg _ => true
  | .wrreg _ _ => true
  | .expinit => true
  | .getbtn => true
  | .busyrd => true
  | .busywait => true
  | .pulse4 _ _ => true
  | .wrcmd _ => true
  | .wrdata _ => true
  | .lcdinit => true
  | .delay _ => false

/-- The fault a well-formed command raises at decode, checks 4 to 6 of R190 in their order. -/
def faultAtDecode (i : Instr) (csN ei li : Bool) : Option FaultCode :=
  if i = .expinit ∧ ei = true then some .expReinit
  else if i = .lcdinit ∧ li = true then some .lcdReinit
  else if Instr.isLcd i = true ∧ ei = false then some .notInit
  else if Instr.opensWindow i = true ∧ csN = false then some .nestedCs
  else
    match i with
    | .xfer _ => if csN then some .xferNoCs else none
    | .endCs => if csN then some .endNoCs else none
    | _ => none

/-- The field conditions of R90 on a word: a reserved `OP`, a field the row marks "must be 0" that is not, or DELAY's
selector 3 (R82's table, field by field). -/
def brokenWord (w : Word) : Bool :=
  match (opOf w).toNat with
  | 0x0 => true
  | 0x3 => zOf w != 0 || rOf w || aOf w != 0
  | 0x4 => zOf w != 0 || rOf w || dOf w != 0
  | 0x5 => zOf w != 0 || rOf w
  | 0xA => zOf w != 0 || aOf w != 0 || (dOf w).extractLsb' 4 4 != 0
  | 0xB => zOf w != 0 || rOf w || aOf w != 0
  | 0xC => zOf w != 0 || rOf w || aOf w != 0
  | 0xE => zOf w != 0 || rOf w || dOf w != 0 || (aOf w).extractLsb' 2 6 != 0 || sOf w == 3
  | 0xF => true
  | _ => zOf w != 0 || rOf w || aOf w != 0 || dOf w != 0

/-! ### The end of a run -/

/-- The host has a command word left to write. -/
def writesCommand : List HostOp → Bool
  | [] => false
  | .write offset _ _ :: ops => offset == cmdOffset || writesCommand ops
  | .pause :: ops => writesCommand ops
  | .read _ _ :: ops => writesCommand ops
  | .reset :: ops => writesCommand ops

/-- The run is over: no more commands to write, and `BSY` = 0 (R44). -/
def State.over (s : State) : Bool := !writesCommand s.host && !s.bsy

/-- The run is over and no fault was entered (R44). -/
def State.succeeded (s : State) : Bool := s.over && !s.flt

/-! ### The discipline of the remaining pseudocode -/

/-- From the given levels of chip-select and clock, pseudocode keeps the transport's discipline (R71, R104, R107, R123): a
window opens only when none is open and closes only when one is; data moves and the clock runs only inside a window; the
clock rises only from low and falls only from high; a window is open at no busy-poll test and no raised fault; and the
clock ends low. -/
def disciplined (csN sck : Bool) : List Op → Bool
  | [] => !sck
  | .act (.clear .cs) :: k => csN && !sck && disciplined false sck k
  | .act (.set .cs) :: k => !csN && !sck && disciplined true sck k
  | .act .drive :: k => !csN && !sck && disciplined csN sck k
  | .act .sample :: k => !csN && !sck && disciplined csN sck k
  | .act (.set .sck) :: k => !csN && !sck && disciplined csN true k
  | .act (.clear .sck) :: k => !csN && sck && disciplined csN false k
  | .act (.set .mosi) :: _ => false
  | .act (.clear .mosi) :: _ => false
  | .act (.delay _) :: k => !sck && disciplined csN sck k
  | .act (.raise _) :: k => csN && !sck && disciplined csN sck k
  | .let_ _ :: k => disciplined csN sck k
  | .pollTest :: k => csN && !sck && disciplined csN sck k

/-- The next thing to do is a primitive (R25: a running command stands at its next primitive). -/
def atPrimitive : List Op → Bool
  | .act _ :: _ => true
  | _ => false

/-- The commands that write `RESULT` when they complete (R31). -/
def Instr.givesResult : Instr → Bool
  | .beginCs => false
  | .endCs => false
  | .xfer _ => true
  | .rdreg _ => true
  | .wrreg _ _ => false
  | .expinit => false
  | .getbtn => true
  | .busyrd => true
  | .busywait => true
  | .pulse4 _ _ => false
  | .wrcmd _ => false
  | .wrdata _ => false
  | .lcdinit => false
  | .delay _ => false

/-- The assignments that end a command stand only at its end: `RESULT` (R31), `EI` (R124) and `LI` (R152). -/
def endsOnly : List Op → Bool
  | [] => true
  | .let_ .result :: k => k.isEmpty
  | .let_ .setEi :: k => k.isEmpty
  | .let_ .setLi :: k => k.isEmpty
  | _ :: k => endsOnly k

/-- A command is running the pseudocode of its own kind: it writes `RESULT`, `EI` or `LI` only if its rule says so, LCD
initialisation needs `EI` (R186, R192), and of faults it raises only `BUSY_TIMEOUT`, and only with a finite limit (R189,
R190). -/
def ownKind (i : Instr) (finite ei : Bool) (k : List Op) : Bool :=
  (!k.contains (.let_ .result) || Instr.givesResult i)
    && (!k.contains (.let_ .setEi) || i == .expinit)
    && (!k.contains (.let_ .setLi) || (i == .lcdinit && ei))
    && k.all fun o =>
      match o with
      | .act (.raise c) => c == .busyTimeout && finite
      | _ => true

/-- What a running command `w` with pseudocode `k` left satisfies. -/
def runningOk (s : State) (w : Word) (k : List Op) : Bool :=
  s.fc == .none && disciplined s.csN s.sck k && atPrimitive k && endsOnly k
    && (match decode w with
        | .ok i => ownKind i s.cfg.busyLimit.isSome s.ei k
        | .error _ => false)

/-- The invariant of every step: a running command keeps the discipline; an idle block has its clock low (R104); in the
fault state chip-select is deasserted as well (R191); and the LCD is initialised only after the expander (R24, R212). -/
def State.inv (s : State) : Bool :=
  (match s.seq with
    | .idle => !s.sck
    | .run w k => runningOk s w k)
    && (!s.flt || s.csN) && (!s.li || s.ei)

/-! ### Levels and the trace -/

/-- The level of an output pin. -/
def State.level (s : State) : OutPin → Bool
  | .cs => s.csN
  | .sck => s.sck
  | .mosi => s.mosi

/-- The level a pin has after the events of a trace, if it had level `v` before them (R22: only `PinSet` and `PinClear`
write a level, and it holds until the next such write). -/
def levelAfter (p : OutPin) (v : Bool) : List Event → Bool
  | [] => v
  | .set q :: t => levelAfter p (if q = p then true else v) t
  | .clear q :: t => levelAfter p (if q = p then false else v) t
  | .read _ :: t => levelAfter p v t
  | .delay _ :: t => levelAfter p v t
  | .issue _ :: t => levelAfter p v t
  | .done _ :: t => levelAfter p v t
  | .fault _ _ :: t => levelAfter p v t
  | .reset :: t => levelAfter p v t

/-- Every output pin's level is the one its last event in the trace drove. -/
def State.levelsFollowTrace (s : State) : Prop := ∀ p v, levelAfter p v s.trace = s.level p

end Sys2Proof.Machine
end

