-- ==== Sys2Proof/Certificates/Slice0/Obligations.lean ====
section
/-! DEFINITION. The statements for the provers. Each says in its docstring which rule of spec/ it formalises. -/

open Sys2Proof Sys2Proof.Machine

/-! ### Encodings -/

/-- R82, R93: the decoder reads every operand of every well-formed command back from its word. -/
def Obligations.DecodeReadsBackEveryCommand : Prop :=
  ∀ i : Instr, i.wf = true → decode (encode i) = .ok i

/-- R93: a word that decodes is the one word of its command, and the command is well formed. -/
def Obligations.EachLegalWordIsItsCommandsWord : Prop :=
  ∀ (w : Word) (i : Instr), decode w = .ok i → i.wf = true ∧ encode i = w

/-- R90: a word is illegal exactly when its `OP` is reserved, a must-be-zero field is not 0, or it is DELAY with the
selector 3; written while the block is ready it raises `ILLEGAL_CMD` with no primitive carried out. -/
def Obligations.IllegalWordsAreRefusedByFault : Prop :=
  ∀ w : Word,
    ((∃ e, decode w = .error e) ↔ brokenWord w = true)
      ∧ ∀ s : State, s.ready → brokenWord w = true →
          ∃ t, writeCmd w s = .next t ∧ t.visible = (s.visible.issued w).faulted .illegalCmd w

/-- 95_test_vectors.md V1 to V21: words written out from the spec decode to the commands they stand for, or are illegal. -/
def Obligations.WordsOfTheTestVectorsDecode : Prop :=
  decode 0x10000000 = .ok .beginCs ∧ decode 0x20000000 = .ok .endCs ∧ decode 0x300000A5 = .ok (.xfer 0xA5)
    ∧ decode 0x40001200 = .ok (.rdreg 0x12) ∧ decode 0x500013C2 = .ok (.wrreg 0x13 0xC2)
    ∧ decode 0x60000000 = .ok .expinit ∧ decode 0x70000000 = .ok .getbtn ∧ decode 0x80000000 = .ok .busyrd
    ∧ decode 0x90000000 = .ok .busywait ∧ decode 0xA001000F = .ok (.pulse4 true 0xF)
    ∧ decode 0xB0000028 = .ok (.wrcmd 0x28) ∧ decode 0xC0000041 = .ok (.wrdata 0x41)
    ∧ decode 0xD0000000 = .ok .lcdinit ∧ decode 0xE0000200 = .ok (.delay 2)
    ∧ decode 0x00000000 = .error .reservedOp ∧ decode 0xF0000000 = .error .reservedOp
    ∧ decode 0x30010000 = .error .mustBeZero ∧ decode 0x40001201 = .error .mustBeZero
    ∧ decode 0xA0000013 = .error .mustBeZero ∧ decode 0xE0000300 = .error .delaySelector

/-- R88, and R87's sentence on the control bits: in a well-formed configuration the nibble stands on bits 3:0 of a pulse's two
values, a pulse writes and a busy read reads, register-select is the pulse's and 0 in a busy read, and the backlight bit is
always 1. -/
def Obligations.PortBValuesCarryNibbleAndControls : Prop :=
  ∀ (c : Config) (rs : Bool) (n : Nibble), c.wf = true →
    (∀ i < 4, (pulseEnable c rs n).getLsbD i = n.getLsbD i ∧ (pulseLatch c rs n).getLsbD i = n.getLsbD i)
      ∧ (∀ v, v = pulseEnable c rs n ∨ v = pulseLatch c rs n →
          v &&& c.pbBl = c.pbBl ∧ v &&& c.pbRw = 0 ∧ v &&& c.pbRs = if rs then c.pbRs else 0)
      ∧ pulseEnable c rs n &&& c.pbE = c.pbE ∧ pulseLatch c rs n &&& c.pbE = 0
      ∧ (∀ v, v = readStrobe c ∨ v = readIdle c →
          v &&& c.pbBl = c.pbBl ∧ v &&& c.pbRw = c.pbRw ∧ v &&& c.pbRs = 0 ∧ v &&& pbData = 0)
      ∧ readStrobe c &&& c.pbE = c.pbE ∧ readIdle c &&& c.pbE = 0

/-! ### Reset, the step and the host port -/

/-- R210, R211: a reset at any step puts the block's state at its reset values and appends its four events; `RB` is
unspecified, so nothing is said of it; the samples to come stay as they were. -/
def Obligations.ResetRestoresTheBlock : Prop :=
  ∀ (s : State) (rest : List HostOp), s.cfg.wf = true → s.host = .reset :: rest →
    ∃ t, step s = .next t ∧
      t.visible = { csN := true, sck := false, mosi := false, ei := false, li := false, seq := .idle, rb := t.rb,
                    rv := false, fc := .none, fcmd := 0,
                    trace := s.trace ++ [.reset, .set .cs, .clear .sck, .clear .mosi],
                    cfg := s.cfg, host := rest, reads := s.reads }
        ∧ ∀ j, t.misoAt j = s.misoAt j

/-- The model's reset state meets the invariants that every step keeps, its configuration meets R8, and a run from it is over
at once. The clauses rest on the model's choices: that the configuration meets R8, on its pin numbers (log entry 2, DESIGN
CHOICE) and the general-knowledge defaults (log entry 4, PRESUMED), since R8 only asks it of a configuration; that the levels
are those last driven, on the reset events that stand in the trace (log entry 18); that the run is over, on the host's list
being empty (log entry 6). -/
def Obligations.ResetStateMeetsTheInvariants : Prop :=
  State.reset.inv = true ∧ State.reset.levelsFollowTrace ∧ State.reset.cfg.wf = true ∧ State.reset.succeeded = true

/-- R41: a step in which the host writes a legal word to `CMD` is the meaning of the word's command, and so is the step of
the state in which that word is placed. -/
def Obligations.StepRunsTheWrittenCommand : Prop :=
  ∀ (s : State) (w : Word) (i : Instr), s.cfg.wf = true → decode w = .ok i →
    (∀ rest, s.host = .write 0x0 32 w :: rest → step s = exec i { s with host := rest })
      ∧ step (s.withFetchWord 32 w.toNat) = exec i { s with seq := .idle, fc := .none }

/-- While the host pauses, and when it has no more turns, the machine's steps are the block's. -/
def Obligations.PausingHostLeavesTheBlockToRun : Prop :=
  ∀ (n : Nat) (s : State), s.cfg.wf = true →
    (s.host = [] → Host.Core.run core n s = .next (turns n s))
      ∧ ∀ rest, s.host = List.replicate n .pause ++ rest →
          ∃ t, Host.Core.run core n s = .next t
            ∧ t.visible = { (turns n s).visible with host := rest } ∧ ∀ j, t.misoAt j = (turns n s).misoAt j

/-- R29: the fields of `STATUS`; each is read-only, and 0 at reset. -/
def Obligations.StatusHoldsItsFields : Prop :=
  (∀ s : State,
    (s.status.getLsbD 0 = true ↔ ∃ w k, s.seq = .run w k)
      ∧ s.status.getLsbD 1 = s.rv ∧ s.status.getLsbD 2 = s.ei ∧ s.status.getLsbD 3 = s.li
      ∧ (s.status.getLsbD 4 = true ↔ s.fc ≠ .none)
      ∧ s.status.getLsbD 5 = !s.csN ∧ s.status.extractLsb' 6 2 = 0
      ∧ s.status.extractLsb' 8 4 = s.fc.code ∧ s.status.extractLsb' 12 20 = 0
      ∧ s.fc.code.toNat ≤ 9 ∧ (s.fc.code = 0 ↔ s.fc = .none)
      ∧ ∀ v, hostWrite 0x4 32 v s = .next s)
    ∧ State.reset.status = 0

/-- R28, R43: the four registers of the host port, and what is outside it. -/
def Obligations.HostPortAnswersItsAccesses : Prop :=
  ∀ (s : State) (v : Word),
    hostWrite 0x0 32 v s = writeCmd v s
      ∧ hostRead 0x0 32 s = .next { s with reads := s.reads ++ [(0x0, 0)] }
      ∧ hostRead 0x4 32 s = .next { s with reads := s.reads ++ [(0x4, s.status)] }
      ∧ (s.rv = true → hostRead 0x8 32 s = .next { s with reads := s.reads ++ [(0x8, s.rb.setWidth 32)] })
      ∧ (s.rv = false → hostRead 0x8 32 s = .fault .resultHasNoValue)
      ∧ hostRead 0xC 32 s = .next { s with reads := s.reads ++ [(0xC, s.fcmd)] }
      ∧ (∀ o, o = 0x4 ∨ o = 0x8 ∨ o = 0xC → hostWrite o 32 v s = .next s)
      ∧ (∀ o, 0x10 ≤ o → hostRead o 32 s = .refused (.outOfPort o) ∧ hostWrite o 32 v s = .refused (.outOfPort o))
      ∧ ∀ o width, width ≠ 32 → hostRead o width s = .refused (.accessWidth width)
          ∧ hostWrite o width v s = .refused (.accessWidth width)

/-- The conditions of R8 are those whose failure makes a step the refusal `illFormedConfig`. That the refusal stands at every
step is the model's choice (log entry 22): R8 does not say where a model refuses. In any other configuration a step is not
this refusal; what else it is, a refused host access among it, is not said here. -/
def Obligations.IllFormedConfigurationsAreRefused : Prop :=
  ∀ s : State,
    ((s.cfg.pinCs = s.cfg.pinSck ∨ s.cfg.pinCs = s.cfg.pinMosi ∨ s.cfg.pinCs = s.cfg.pinMiso
        ∨ s.cfg.pinSck = s.cfg.pinMosi ∨ s.cfg.pinSck = s.cfg.pinMiso ∨ s.cfg.pinMosi = s.cfg.pinMiso
        ∨ s.cfg.opcRead = s.cfg.opcWrite ∨ s.cfg.busyLimit = some 0
        ∨ ¬ [s.cfg.pbRs, s.cfg.pbRw, s.cfg.pbE, s.cfg.pbBl].Perm [0x10, 0x20, 0x40, 0x80]) ↔
      step s = .refused .illFormedConfig)

/-! ### Faults -/

/-- R191: what fault entry records and drives, and what it leaves. -/
def Obligations.FaultEntryRecordsAndReleases : Prop :=
  ∀ (c : FaultCode) (w : Word) (s : State), (faultEntry c w s).visible = s.visible.faulted c w

/-- R190, and with it R183 to R188: a word written to `CMD` is ignored in the fault state, and is an overrun while a command
runs; else an illegal word, and then the checks of its command, raise the first fault of the order given that applies, before
the first primitive. If none applies the command is issued and runs, and of faults only `BUSY_TIMEOUT` can follow. -/
def Obligations.CommandWritesAreCheckedInOrder : Prop :=
  ∀ (w : Word) (s : State),
    (s.fc ≠ .none → writeCmd w s = .next s)
      ∧ (s.fc = .none → s.bsy = true → ∃ t, writeCmd w s = .next t ∧ t.visible = s.visible.faulted .overrun w)
      ∧ (s.ready → brokenWord w = true →
          ∃ t, writeCmd w s = .next t ∧ t.visible = (s.visible.issued w).faulted .illegalCmd w)
      ∧ (s.ready → ∀ i, decode w = .ok i →
          (∀ c, faultAtDecode i s.csN s.ei s.li = some c →
              ∃ t, writeCmd w s = .next t ∧ t.visible = (s.visible.issued w).faulted c w)
            ∧ (faultAtDecode i s.csN s.ei s.li = none →
              ∃ u, writeCmd w s = .next u ∧ u.bsy = true ∧ u.visible = { s.visible.issued w with seq := u.seq }))
      ∧ (s.inv = true → s.bsy = true → (blockTurn s).fc = .none ∨ (blockTurn s).fc = .busyTimeout)

/-- R182: a word written to `CMD` while a command runs, legal or not, raises `OVERRUN` with that word in `FCMD`, and the
running command is abandoned where it is. -/
def Obligations.WriteWhileBusyOverruns : Prop :=
  ∀ (s : State) (w w' : Word) (k : List Op) (rest : List HostOp), s.cfg.wf = true → s.fc = .none → s.seq = .run w' k →
    s.host = .write 0x0 32 w :: rest →
      ∃ t, step s = .next t ∧ t.visible = Visible.faulted { s.visible with host := rest } .overrun w

/-- R193: in the fault state no step but a reset changes anything but the host's own lists. -/
def Obligations.FaultStateStaysUntilReset : Prop :=
  ∀ s t : State, s.fc ≠ .none → step s = .next t → s.host.head? ≠ some .reset →
    t = { s with host := s.host.tail, reads := t.reads }

/-- R189: wherever a busy-poll stands in a running command, a finite limit of busy reads that all find the LCD busy raises
`BUSY_TIMEOUT`, after those busy reads and no more; with `BUSY_LIMIT` = `UNBOUNDED` no step raises it. -/
def Obligations.BusyPollTimesOutAtItsLimitOnly : Prop :=
  (∀ (s : State) (w : Word) (k : List Op) (l : Nat), s.fc = .none → 1 ≤ l → s.cfg.busyLimit = some l →
    s.busyFor 0 l = true →
      let start := settle w (busywaitCode s.cfg ++ k) s
      (∀ m ≤ l * busyReadEvents s.cfg, (turns m start).bsy = true)
        ∧ (turns (l * busyReadEvents s.cfg + 1) start).visible =
            Visible.faulted
              { s.visible with
                csN := true, sck := false, mosi := mosiAfterBusyRead s.cfg,
                trace := s.trace ++ framesEvents (s.pollFrames 0 l) } .busyTimeout w)
    ∧ ∀ s t : State, s.inv = true → s.cfg.busyLimit = none → step s = .next t → s.fc ≠ .busyTimeout → t.fc ≠ .busyTimeout

/-! ### Transport -/

/-- R100. -/
def Obligations.BeginAssertsChipSelect : Prop :=
  decode (c32 0x1 false 0 0) = .ok .beginCs ∧
  ∀ s : State, s.ready →
    (s.csN = false → FaultsAtDecode .beginCs s .nestedCs)
      ∧ (s.csN = true →
          Completes .beginCs s 1
            { s.visible with csN := false, trace := s.trace ++ [.issue 0x10000000, .clear .cs, .done 0x10000000] } 0)

/-- R101. -/
def Obligations.EndDeassertsChipSelect : Prop :=
  decode (c32 0x2 false 0 0) = .ok .endCs ∧
  ∀ s : State, s.ready →
    (s.csN = true → FaultsAtDecode .endCs s .endNoCs)
      ∧ (s.csN = false →
          Completes .endCs s 1
            { s.visible with csN := true, trace := s.trace ++ [.issue 0x20000000, .set .cs, .done 0x20000000] } 0)

/-- R102: thirty-two pin events, a bit cell for each bit from 7 down; the result is the byte sampled. -/
def Obligations.XferExchangesOneByte : Prop :=
  ∀ d : Byte, decode (c32 0x3 false 0 d) = .ok (.xfer d) ∧
  ∀ s : State, s.ready →
    (s.csN = true → FaultsAtDecode (.xfer d) s .xferNoCs)
      ∧ (s.csN = false →
          Completes (.xfer d) s 32
            { s.visible with
              mosi := d.getLsbD 0, sck := false, rb := s.misoByte 0, rv := true,
              trace := s.trace ++ [.issue (c32 0x3 false 0 d)] ++ exchangeEvents (d, s.misoByte 0)
                ++ [.done (c32 0x3 false 0 d)] } 8)

/-- R103: the transfer law. The events on data-out are the bits of `d` in order, the result is the sum of the draws by their
weights, and the clock rises eight times and falls after each. What an XFER drives does not depend on what is sampled, and
its result does not depend on the byte sent. -/
def Obligations.TransferLaw : Prop :=
  (∀ (d : Byte) (s : State), s.ready → s.csN = false →
    ∃ u evs, exec (.xfer d) s = .next u
      ∧ (turns 32 u).trace = s.trace ++ [.issue (encode (.xfer d))] ++ evs ++ [.done (encode (.xfer d))]
      ∧ evs.filter (fun e => e == .set .mosi || e == .clear .mosi)
          = ([7, 6, 5, 4, 3, 2, 1, 0].map fun i => if d.getLsbD i then .set .mosi else .clear .mosi)
      ∧ evs.filter (fun e => e == .set .sck || e == .clear .sck) = (List.replicate 8 [.set .sck, .clear .sck]).flatten
      ∧ (turns 32 u).rb.toNat = ([7, 6, 5, 4, 3, 2, 1, 0].map fun i => (s.misoAt (7 - i)).toNat * 2 ^ i).sum)
    ∧ ∀ (d d' : Byte) (s : State) (draws : List Bool), s.ready → s.csN = false →
      ∃ u u' v, exec (.xfer d) s = .next u ∧ exec (.xfer d) { s with miso := draws } = .next u' ∧ exec (.xfer d') s = .next v
        ∧ (turns 32 u).trace.filter (fun e => e != .read true && e != .read false)
            = (turns 32 u').trace.filter (fun e => e != .read true && e != .read false)
        ∧ (turns 32 u).rb = (turns 32 v).rb

/-! ### Expander register access -/

/-- R120. -/
def Obligations.RdregReadsOneRegister : Prop :=
  ∀ a : Byte, decode (c32 0x4 false a 0) = .ok (.rdreg a) ∧
  ∀ s : State, s.ready →
    (s.csN = false → FaultsAtDecode (.rdreg a) s .nestedCs)
      ∧ (s.csN = true →
          Completes (.rdreg a) s 98
            { s.visible with
              csN := true, sck := false, mosi := s.cfg.dummy.getLsbD 0, rb := s.readValue 0, rv := true,
              trace := s.trace ++ [.issue (c32 0x4 false a 0)] ++ frameEvents (s.readFrame 0 a)
                ++ [.done (c32 0x4 false a 0)] } 24)

/-- R122. -/
def Obligations.WrregWritesOneRegister : Prop :=
  ∀ a v : Byte, decode (c32 0x5 false a v) = .ok (.wrreg a v) ∧
  ∀ s : State, s.ready →
    (s.csN = false → FaultsAtDecode (.wrreg a v) s .nestedCs)
      ∧ (s.csN = true →
          Completes (.wrreg a v) s 98
            { s.visible with
              csN := true, sck := false, mosi := v.getLsbD 0,
              trace := s.trace ++ [.issue (c32 0x5 false a v)] ++ frameEvents (s.writeFrame 0 a v)
                ++ [.done (c32 0x5 false a v)] } 24)

/-- R124. -/
def Obligations.ExpinitConfiguresThePorts : Prop :=
  decode (c32 0x6 false 0 0) = .ok .expinit ∧
  ∀ s : State, s.ready →
    (s.ei = true → FaultsAtDecode .expinit s .expReinit)
      ∧ (s.ei = false → s.csN = false → FaultsAtDecode .expinit s .nestedCs)
      ∧ (s.ei = false → s.csN = true →
          Completes .expinit s 294
            { s.visible with
              csN := true, sck := false, mosi := s.cfg.dirAllOut.getLsbD 0, ei := true,
              trace := s.trace ++ [.issue 0x60000000]
                ++ framesEvents [s.writeFrame 0 s.cfg.regIodira s.cfg.dirAllIn,
                    s.writeFrame 24 s.cfg.regGppua s.cfg.puAllOn, s.writeFrame 48 s.cfg.regIodirb s.cfg.dirAllOut]
                ++ [.done 0x60000000] } 72)

/-- R126. -/
def Obligations.GetbtnReadsPortA : Prop :=
  decode (c32 0x7 false 0 0) = .ok .getbtn ∧
  ∀ s : State, s.ready →
    (s.csN = false → FaultsAtDecode .getbtn s .nestedCs)
      ∧ (s.csN = true →
          Completes .getbtn s 98
            { s.visible with
              csN := true, sck := false, mosi := s.cfg.dummy.getLsbD 0, rb := s.readValue 0, rv := true,
              trace := s.trace ++ [.issue 0x70000000] ++ frameEvents (s.readFrame 0 s.cfg.regGpioa)
                ++ [.done 0x70000000] } 24)

/-! ### LCD protocol engine -/

/-- R140. -/
def Obligations.BusyrdReadsTheStatus : Prop :=
  decode (c32 0x8 false 0 0) = .ok .busyrd ∧
  ∀ s : State, s.ready →
    (s.ei = false → FaultsAtDecode .busyrd s .notInit)
      ∧ (s.ei = true → s.csN = false → FaultsAtDecode .busyrd s .nestedCs)
      ∧ (s.ei = true → s.csN = true →
          Completes .busyrd s (busyReadEvents s.cfg)
            { s.visible with
              csN := true, sck := false, mosi := mosiAfterBusyRead s.cfg, rb := s.busyStatus 0, rv := true,
              trace := s.trace ++ [.issue 0x80000000] ++ framesEvents (s.busyReadFrames 0) ++ [.done 0x80000000] }
            (busyReadDraws s.cfg))

/-- R142: the busy-poll returns the first status that is not busy, within the limit; at a finite limit it times out. -/
def Obligations.BusywaitPollsUntilNotBusy : Prop :=
  decode (c32 0x9 false 0 0) = .ok .busywait ∧
  ∀ s : State, s.ready →
    (s.ei = false → FaultsAtDecode .busywait s .notInit)
      ∧ (s.ei = true → s.csN = false → FaultsAtDecode .busywait s .nestedCs)
      ∧ (∀ k, s.ei = true → s.csN = true → s.pollEnds 0 k = true →
          Completes .busywait s ((k + 1) * busyReadEvents s.cfg)
            { s.visible with
              csN := true, sck := false, mosi := mosiAfterBusyRead s.cfg,
              rb := s.busyStatus (k * busyReadDraws s.cfg), rv := true,
              trace := s.trace ++ [.issue 0x90000000] ++ framesEvents (s.pollFrames 0 (k + 1)) ++ [.done 0x90000000] }
            ((k + 1) * busyReadDraws s.cfg))
      ∧ ∀ l, s.ei = true → s.csN = true → 1 ≤ l → s.cfg.busyLimit = some l → s.busyFor 0 l = true →
          ∃ u, exec .busywait s = .next u
            ∧ (turns (l * busyReadEvents s.cfg + 1) u).visible =
                Visible.faulted
                  { s.visible with
                    csN := true, sck := false, mosi := mosiAfterBusyRead s.cfg,
                    trace := s.trace ++ [.issue 0x90000000] ++ framesEvents (s.pollFrames 0 l) }
                  .busyTimeout 0x90000000

/-- R143: without a limit, BUSYWAIT completes with exactly the busy read that is the first to find the LCD not busy, and runs
on as long as there is none; with the limit `l` it completes within `l` busy reads or faults after exactly `l`. -/
def Obligations.BusywaitTerminationLaw : Prop :=
  ∀ s : State, s.ready → s.ei = true → s.csN = true →
    ∃ u, exec .busywait s = .next u
      ∧ (s.cfg.busyLimit = none → ∀ k,
          ((∀ m < (k + 1) * busyReadEvents s.cfg, (turns m u).bsy = true)
              ∧ (turns ((k + 1) * busyReadEvents s.cfg) u).bsy = false)
            ↔ s.busyFor 0 k = true ∧ busyFlag (s.busyStatus (k * busyReadDraws s.cfg)) = false)
      ∧ (s.cfg.busyLimit = none → ∀ k, s.busyFor 0 k = true → ∀ m ≤ k * busyReadEvents s.cfg, (turns m u).bsy = true)
      ∧ ∀ l, 1 ≤ l → s.cfg.busyLimit = some l →
          (∃ k < l, (turns ((k + 1) * busyReadEvents s.cfg) u).ready)
            ∨ (turns (l * busyReadEvents s.cfg) u).bsy = true
                ∧ (turns (l * busyReadEvents s.cfg + 1) u).fc = .busyTimeout

/-- R144. -/
def Obligations.Pulse4WritesItsTwoPhases : Prop :=
  ∀ (rs : Bool) (n : Nibble), decode (c32 0xA rs 0 (n.setWidth 8)) = .ok (.pulse4 rs n) ∧
  ∀ s : State, s.ready →
    (s.ei = false → FaultsAtDecode (.pulse4 rs n) s .notInit)
      ∧ (s.ei = true → s.csN = false → FaultsAtDecode (.pulse4 rs n) s .nestedCs)
      ∧ (s.ei = true → s.csN = true →
          Completes (.pulse4 rs n) s 196
            { s.visible with
              csN := true, sck := false, mosi := (pulseLatch s.cfg rs n).getLsbD 0,
              trace := s.trace ++ [.issue (c32 0xA rs 0 (n.setWidth 8))] ++ framesEvents (s.pulseFrames 0 rs n)
                ++ [.done (c32 0xA rs 0 (n.setWidth 8))] } 48)

/-- R147, with R146 and R148 but for the timeout: WRCMD and WRDATA are the five steps busy-poll, high nibble, busy-poll, low
nibble, busy-poll, in that order, none skipped; the first with register-select omitted, the second with it asserted. -/
def Obligations.ByteWritesTakeTheFiveSteps : Prop :=
  ∀ (v : Byte) (s : State) (p : BytePlan), s.ready → s.ei = true → s.csN = true → s.byteEnds 0 p = true →
    Completes (.wrcmd v) s (p.events s.cfg)
        { s.visible with
          csN := true, sck := false, mosi := mosiAfterBusyRead s.cfg,
          trace := s.trace ++ [.issue (c32 0xB false 0 v)] ++ framesEvents (s.byteFrames 0 false v p)
            ++ [.done (c32 0xB false 0 v)] } (p.endAt s.cfg 0)
      ∧ Completes (.wrdata v) s (p.events s.cfg)
        { s.visible with
          csN := true, sck := false, mosi := mosiAfterBusyRead s.cfg,
          trace := s.trace ++ [.issue (c32 0xC false 0 v)] ++ framesEvents (s.byteFrames 0 true v p)
            ++ [.done (c32 0xC false 0 v)] } (p.endAt s.cfg 0)

/-- R154: the port B view of WRCMD and WRDATA, whose busy-polls each end with their first read, in a well-formed configuration
without a trailing write. -/
def Obligations.PortBViewOfByteWrites : Prop :=
  ∀ (rs : Bool) (x : Byte) (s : State), s.cfg.wf = true → s.cfg.pollTail = .none → s.ready → s.ei = true → s.csN = true →
    s.byteEnds 0 ⟨0, 0, 0⟩ = true →
      let c := s.cfg
      let p := if rs then c.pbBl ||| c.pbRs else c.pbBl
      ∃ (u : State) (evs : List Event) (r1 r2 r3 r4 r5 r6 : Byte),
        exec (if rs then .wrdata x else .wrcmd x) s = .next u
          ∧ (turns (BytePlan.events c ⟨0, 0, 0⟩) u).trace = s.trace ++ evs
          ∧ portBView c evs =
              [ .w (c.pbBl ||| c.pbRw), .w (c.pbBl ||| c.pbRw ||| c.pbE), .r r1,
                .w (c.pbBl ||| c.pbRw), .w (c.pbBl ||| c.pbRw ||| c.pbE), .r r2,
                .w (p ||| (x >>> 4) ||| c.pbE), .w (p ||| (x >>> 4)),
                .w (c.pbBl ||| c.pbRw), .w (c.pbBl ||| c.pbRw ||| c.pbE), .r r3,
                .w (c.pbBl ||| c.pbRw), .w (c.pbBl ||| c.pbRw ||| c.pbE), .r r4,
                .w (p ||| (x &&& 0xF) ||| c.pbE), .w (p ||| (x &&& 0xF)),
                .w (c.pbBl ||| c.pbRw), .w (c.pbBl ||| c.pbRw ||| c.pbE), .r r5,
                .w (c.pbBl ||| c.pbRw), .w (c.pbBl ||| c.pbRw ||| c.pbE), .r r6 ]
          ∧ r1.getLsbD 3 = false ∧ r3.getLsbD 3 = false ∧ r5.getLsbD 3 = false

/-- R150: DELAY is one `Delay` event, with any level of chip-select and before expander initialisation; the word with the
selector 3 is illegal. The last clause is of the constructor `delay` with the selector 3, which no word decodes to: that its
`exec` is the write of the illegal word 0xE0000300 is the model's choice (log entry 23). -/
def Obligations.DelayIsOneEvent : Prop :=
  ∀ s : State, s.ready →
    (∀ sel d, (sel, d) ∈ [((0 : BitVec 2), Dly.pre), (1, Dly.init), (2, Dly.clear)] →
        decode (c32 0xE false (sel.setWidth 8) 0) = .ok (.delay sel)
          ∧ Completes (.delay sel) s 1
              { s.visible with
                trace := s.trace ++ [.issue (c32 0xE false (sel.setWidth 8) 0), .delay d,
                  .done (c32 0xE false (sel.setWidth 8) 0)] } 0)
      ∧ decode 0xE0000300 = .error .delaySelector ∧ FaultsAtDecode (.delay 3) s .illegalCmd

/-- R152, but for the timeout: LCD initialisation is its pseudocode, in either order of display-on and clear. -/
def Obligations.LcdinitSendsTheSequence : Prop :=
  decode (c32 0xD false 0 0) = .ok .lcdinit ∧
  ∀ s : State, s.ready →
    (s.li = true → FaultsAtDecode .lcdinit s .lcdReinit)
      ∧ (s.li = false → s.ei = false → FaultsAtDecode .lcdinit s .notInit)
      ∧ (s.li = false → s.ei = true → s.csN = false → FaultsAtDecode .lcdinit s .nestedCs)
      ∧ ∀ p : InitPlan, s.li = false → s.ei = true → s.csN = true → s.initEnds p = true →
          Completes .lcdinit s (p.steps s.cfg)
            { s.visible with
              csN := true, sck := false, mosi := mosiAfterBusyRead s.cfg, li := true,
              trace := s.trace ++ [.issue 0xD0000000] ++ s.initEvents p ++ [.done 0xD0000000] }
            (p.entry.endAt s.cfg (p.entryAt s.cfg))

/-! ### Whole-machine rules -/

/-- R71, R104, R107, R123, R191, R192: every step keeps the invariant, from every state that meets it. -/
def Obligations.EveryStepKeepsTheInvariant : Prop :=
  ∀ s t : State, s.inv = true → step s = .next t → t.inv = true

/-- R71: no step opens a chip-select window while one is open. -/
def Obligations.WindowsNeverNest : Prop :=
  ∀ s t : State, s.inv = true → step s = .next t →
    ∃ evs, t.trace = s.trace ++ evs ∧ (.clear .cs ∈ evs → s.csN = true)

/-- R22: in every state a step reaches from one where it holds, each output pin has the level its last event drove. -/
def Obligations.LevelsAreThoseLastDriven : Prop :=
  ∀ s t : State, s.levelsFollowTrace → step s = .next t → t.levelsFollowTrace

/-- R34: no step removes or rewrites an event. -/
def Obligations.TraceOnlyGrows : Prop :=
  ∀ s t : State, step s = .next t → ∃ evs, t.trace = s.trace ++ evs

/-- R36: no step changes the configuration. -/
def Obligations.ConfigurationIsFixed : Prop :=
  ∀ s t : State, step s = .next t → t.cfg = s.cfg

/-- R25, R14: a step of a running command carries out exactly one primitive, which appends exactly one event; the command's
completion follows it in the same step. -/
def Obligations.EachStepIsOnePrimitive : Prop :=
  ∀ (s : State) (w : Word) (k : List Op), s.inv = true → s.seq = .run w k →
    ∃ e, (e.onPin = true ∨ (∃ d, e = .delay d) ∨ e = .fault .busyTimeout w)
      ∧ ((blockTurn s).bsy = true ∧ (blockTurn s).trace = s.trace ++ [e]
          ∨ (blockTurn s).ready ∧ (blockTurn s).trace = s.trace ++ [e, .done w]
          ∨ (blockTurn s).fc = .busyTimeout ∧ (blockTurn s).seq = .idle ∧ (blockTurn s).trace = s.trace ++ [e])

/-- R31: a step other than a reset changes `RESULT` or `RV` only by completing an XFER, RDREG, GETBTN, BUSYRD or BUSYWAIT,
and then `RV` is 1. -/
def Obligations.ResultIsWrittenOnlyOnCompletion : Prop :=
  ∀ s t : State, s.inv = true → step s = .next t → s.host.head? ≠ some .reset → (t.rb ≠ s.rb ∨ t.rv ≠ s.rv) →
    t.rv = true ∧ t.seq = .idle ∧ t.fc = .none ∧
      ∃ w k, s.seq = .run w k ∧
        (decode w = .ok .getbtn ∨ decode w = .ok .busyrd ∨ decode w = .ok .busywait
          ∨ (∃ d, decode w = .ok (.xfer d)) ∨ ∃ a, decode w = .ok (.rdreg a))

/-- R24: `EI` is set only by the completion of EXPINIT and `LI` only by that of LCDINIT, and only a reset clears them. -/
def Obligations.InitFlagsAreSetOnCompletionOnly : Prop :=
  ∀ s t : State, s.inv = true → step s = .next t → s.host.head? ≠ some .reset →
    (s.ei = true → t.ei = true) ∧ (s.li = true → t.li = true)
      ∧ (s.ei = false → t.ei = true → t.ready ∧ ∃ w k, s.seq = .run w k ∧ decode w = .ok .expinit)
      ∧ (s.li = false → t.li = true → t.ready ∧ ∃ w k, s.seq = .run w k ∧ decode w = .ok .lcdinit)

/-! ### Views -/

/-- R35: the frame view of the events of windows of whole XFERs is those windows: it loses nothing. -/
def Obligations.FrameViewLosesNothing : Prop :=
  ∀ fs : List Frame, frames (framesEvents fs) = fs

/-- R35, R191, R210: of a window that a fault or a reset cuts in the middle of a byte, after any of its 32 events but the last,
the frame view shows the exchanges that were complete, and nothing of the byte. That the window itself is shown is the
model's reading of R35 (log entry 25). -/
def Obligations.CutBytesAreLeftOutOfTheFrameView : Prop :=
  ∀ (fs : List Frame) (f : Frame) (x : Exchange) (n : Nat) (c : FaultCode) (w : Word) (tail : List Event), n < 32 →
    (tail = [.fault c w, .clear .sck, .set .cs] ∨ tail = [.fault c w, .set .cs] ∨ tail = resetEvents) →
      frames (framesEvents fs ++ [.clear .cs] ++ f.flatMap exchangeEvents ++ (exchangeEvents x).take n ++ tail) = fs ++ [f]

/-- R121: RDREG and WRREG each make one window of three bytes, which is 98 pin events from the fall of chip-select to its rise,
of which 24 are MISO reads, 24 MOSI drives and 48 clock edges. -/
def Obligations.TransactionIsNinetyEightEvents : Prop :=
  ∀ (i : Instr) (s : State), ((∃ a, i = .rdreg a) ∨ ∃ a v, i = .wrreg a v) → s.ready → s.csN = true →
    ∃ u x y z, exec i s = .next u
      ∧ (turns 98 u).trace = s.trace ++ [.issue (encode i)] ++ frameEvents [x, y, z] ++ [.done (encode i)]
      ∧ frames (frameEvents [x, y, z]) = [[x, y, z]]
      ∧ pinCount (frameEvents [x, y, z]) = 98
      ∧ (frameEvents [x, y, z]).head? = some (.clear .cs) ∧ (frameEvents [x, y, z]).getLast? = some (.set .cs)
      ∧ ((frameEvents [x, y, z]).filter (fun e => e == .read true || e == .read false)).length = 24
      ∧ ((frameEvents [x, y, z]).filter (fun e => e == .set .mosi || e == .clear .mosi)).length = 24
      ∧ ((frameEvents [x, y, z]).filter (fun e => e == .set .sck || e == .clear .sck)).length = 48

/-- R231: the pin events of the LCD engine's units. -/
def Obligations.PinEventCounts : Prop :=
  ∀ (s : State) (j k : Nat) (rs : Bool) (n : Nibble) (v : Byte) (p : BytePlan) (q : InitPlan),
    pinCount (framesEvents (s.pollFrames j k)) = k * busyReadEvents s.cfg
      ∧ pinCount (framesEvents (s.pulseFrames j rs n)) = 196
      ∧ pinCount (framesEvents (s.byteFrames j rs v p)) = 392 + p.reads * busyReadEvents s.cfg
      ∧ pinCount (s.initEvents q) =
          784 + q.funcset.events s.cfg + q.second.events s.cfg + q.third.events s.cfg + q.entry.events s.cfg
      ∧ ((s.initEvents q).filter (fun e => e == .delay .pre || e == .delay .init || e == .delay .clear)).length = 6

/-- 95_test_vectors.md P1: a read frame that the host builds with BEGIN, three XFERs and END has the pin events of RDREG and
leaves the same result. -/
def Obligations.RawReadFrameEqualsRdreg : Prop :=
  ∀ (s : State) (a : Byte), s.ready → s.csN = true →
    ∃ u0 u1 u2 u3 u4 v, exec .beginCs s = .next u0
      ∧ exec (.xfer s.cfg.opcRead) (turns 1 u0) = .next u1 ∧ exec (.xfer a) (turns 32 u1) = .next u2
      ∧ exec (.xfer s.cfg.dummy) (turns 32 u2) = .next u3 ∧ exec .endCs (turns 32 u3) = .next u4
      ∧ exec (.rdreg a) s = .next v
      ∧ pinEvents (turns 1 u4).trace = pinEvents (turns 98 v).trace
      ∧ (turns 1 u4).rb = (turns 98 v).rb ∧ (turns 1 u4).csN = (turns 98 v).csN ∧ (turns 1 u4).status = (turns 98 v).status
end

