-- ==== Sys2Proof/Laws/Decode.lean ====
section
/-! SUPPORT. The command word as its fields (30_encoding.md rule R80): packing, unpacking, and masking field by field. -/

namespace Sys2Proof

/-- A word from all five fields of `C32`, the reserved one too. -/
def ofFields (op : BitVec 4) (z : BitVec 11) (r : Bool) (a d : Byte) : Word := op ++ z ++ BitVec.ofBool r ++ a ++ d

theorem c32_eq_ofFields (op : BitVec 4) (r : Bool) (a d : Byte) : c32 op r a d = ofFields op 0 r a d := rfl

@[simp] theorem opOf_ofFields (op : BitVec 4) (z : BitVec 11) (r : Bool) (a d : Byte) :
    opOf (ofFields op z r a d) = op := by
  apply BitVec.eq_of_getLsbD_eq
  intro i hi
  simp only [opOf, ofFields, BitVec.getLsbD_extractLsb', BitVec.getLsbD_append]
  interval_cases i <;> simp

@[simp] theorem zOf_ofFields (op : BitVec 4) (z : BitVec 11) (r : Bool) (a d : Byte) :
    zOf (ofFields op z r a d) = z := by
  apply BitVec.eq_of_getLsbD_eq
  intro i hi
  simp only [zOf, ofFields, BitVec.getLsbD_extractLsb', BitVec.getLsbD_append]
  interval_cases i <;> simp

@[simp] theorem rOf_ofFields (op : BitVec 4) (z : BitVec 11) (r : Bool) (a d : Byte) :
    rOf (ofFields op z r a d) = r := by
  simp only [rOf, ofFields, BitVec.getLsbD_append]
  simp

@[simp] theorem aOf_ofFields (op : BitVec 4) (z : BitVec 11) (r : Bool) (a d : Byte) :
    aOf (ofFields op z r a d) = a := by
  apply BitVec.eq_of_getLsbD_eq
  intro i hi
  simp only [aOf, ofFields, BitVec.getLsbD_extractLsb', BitVec.getLsbD_append]
  interval_cases i <;> simp

@[simp] theorem dOf_ofFields (op : BitVec 4) (z : BitVec 11) (r : Bool) (a d : Byte) :
    dOf (ofFields op z r a d) = d := by
  apply BitVec.eq_of_getLsbD_eq
  intro i hi
  simp only [dOf, ofFields, BitVec.getLsbD_extractLsb', BitVec.getLsbD_append]
  interval_cases i <;> simp

/-- Every word is made of its fields. -/
theorem ofFields_fields (w : Word) : ofFields (opOf w) (zOf w) (rOf w) (aOf w) (dOf w) = w := by
  apply BitVec.eq_of_getLsbD_eq
  intro i hi
  simp only [ofFields, opOf, zOf, rOf, aOf, dOf, BitVec.getLsbD_extractLsb', BitVec.getLsbD_append, BitVec.getLsbD_ofBool]
  interval_cases i <;> simp

/-- Words are equal exactly when their fields are. -/
theorem ofFields_inj {op op' : BitVec 4} {z z' : BitVec 11} {r r' : Bool} {a a' d d' : Byte} :
    ofFields op z r a d = ofFields op' z' r' a' d' ↔ op = op' ∧ z = z' ∧ r = r' ∧ a = a' ∧ d = d' := by
  constructor
  · intro h
    refine ⟨?_, ?_, ?_, ?_, ?_⟩
    · rw [← opOf_ofFields op z r a d, h, opOf_ofFields]
    · rw [← zOf_ofFields op z r a d, h, zOf_ofFields]
    · rw [← rOf_ofFields op z r a d, h, rOf_ofFields]
    · rw [← aOf_ofFields op z r a d, h, aOf_ofFields]
    · rw [← dOf_ofFields op z r a d, h, dOf_ofFields]
  · rintro ⟨rfl, rfl, rfl, rfl, rfl⟩
    rfl

/-- Masking goes field by field. -/
theorem ofFields_and (op op' : BitVec 4) (z z' : BitVec 11) (r r' : Bool) (a a' d d' : Byte) :
    ofFields op z r a d &&& ofFields op' z' r' a' d'
      = ofFields (op &&& op') (z &&& z') (r && r') (a &&& a') (d &&& d') := by
  apply BitVec.eq_of_getLsbD_eq
  intro i hi
  simp only [ofFields, BitVec.getLsbD_and, BitVec.getLsbD_append, BitVec.getLsbD_ofBool]
  interval_cases i <;> simp

/-- A match-and-mask test, field by field (R82). -/
theorem and_eq_iff_fields (w : Word) (op op' : BitVec 4) (z z' : BitVec 11) (r r' : Bool) (a a' d d' : Byte) :
    w &&& ofFields op z r a d = ofFields op' z' r' a' d' ↔
      opOf w &&& op = op' ∧ zOf w &&& z = z' ∧ (rOf w && r) = r' ∧ aOf w &&& a = a' ∧ dOf w &&& d = d' := by
  conv => lhs; lhs; rw [← ofFields_fields w, ofFields_and]
  exact ofFields_inj

end Sys2Proof
end

