-- ==== Sys2Proof/Laws/State.lean ====
section
/-! SUPPORT. What each named update of the state does to each field: one lemma a field and update. -/

namespace Sys2Proof.Machine

/-! ### `emit` -/

@[simp] theorem emit_cfg (e : Event) (s : State) : (emit e s).cfg = s.cfg := rfl
@[simp] theorem emit_csN (e : Event) (s : State) : (emit e s).csN = s.csN := rfl
@[simp] theorem emit_sck (e : Event) (s : State) : (emit e s).sck = s.sck := rfl
@[simp] theorem emit_mosi (e : Event) (s : State) : (emit e s).mosi = s.mosi := rfl
@[simp] theorem emit_ei (e : Event) (s : State) : (emit e s).ei = s.ei := rfl
@[simp] theorem emit_li (e : Event) (s : State) : (emit e s).li = s.li := rfl
@[simp] theorem emit_seq (e : Event) (s : State) : (emit e s).seq = s.seq := rfl
@[simp] theorem emit_xo (e : Event) (s : State) : (emit e s).xo = s.xo := rfl
@[simp] theorem emit_xi (e : Event) (s : State) : (emit e s).xi = s.xi := rfl
@[simp] theorem emit_xb (e : Event) (s : State) : (emit e s).xb = s.xb := rfl
@[simp] theorem emit_hi (e : Event) (s : State) : (emit e s).hi = s.hi := rfl
@[simp] theorem emit_lo (e : Event) (s : State) : (emit e s).lo = s.lo := rfl
@[simp] theorem emit_st (e : Event) (s : State) : (emit e s).st = s.st := rfl
@[simp] theorem emit_nb (e : Event) (s : State) : (emit e s).nb = s.nb := rfl
@[simp] theorem emit_ret (e : Event) (s : State) : (emit e s).ret = s.ret := rfl
@[simp] theorem emit_rb (e : Event) (s : State) : (emit e s).rb = s.rb := rfl
@[simp] theorem emit_rv (e : Event) (s : State) : (emit e s).rv = s.rv := rfl
@[simp] theorem emit_fc (e : Event) (s : State) : (emit e s).fc = s.fc := rfl
@[simp] theorem emit_fcmd (e : Event) (s : State) : (emit e s).fcmd = s.fcmd := rfl
@[simp] theorem emit_trace (e : Event) (s : State) : (emit e s).trace = s.trace ++ [e] := rfl
@[simp] theorem emit_miso (e : Event) (s : State) : (emit e s).miso = s.miso := rfl
@[simp] theorem emit_drawn (e : Event) (s : State) : (emit e s).drawn = s.drawn := rfl
@[simp] theorem emit_fresh (e : Event) (s : State) : (emit e s).fresh = s.fresh := rfl
@[simp] theorem emit_host (e : Event) (s : State) : (emit e s).host = s.host := rfl
@[simp] theorem emit_reads (e : Event) (s : State) : (emit e s).reads = s.reads := rfl

/-! ### `setLevel` -/

@[simp] theorem setLevel_cfg (p : OutPin) (v : Bool) (s : State) : (setLevel p v s).cfg = s.cfg := by cases p <;> rfl
@[simp] theorem setLevel_csN (p : OutPin) (v : Bool) (s : State) : (setLevel p v s).csN = if p = .cs then v else s.csN := by cases p <;> rfl
@[simp] theorem setLevel_sck (p : OutPin) (v : Bool) (s : State) : (setLevel p v s).sck = if p = .sck then v else s.sck := by cases p <;> rfl
@[simp] theorem setLevel_mosi (p : OutPin) (v : Bool) (s : State) : (setLevel p v s).mosi = if p = .mosi then v else s.mosi := by cases p <;> rfl
@[simp] theorem setLevel_ei (p : OutPin) (v : Bool) (s : State) : (setLevel p v s).ei = s.ei := by cases p <;> rfl
@[simp] theorem setLevel_li (p : OutPin) (v : Bool) (s : State) : (setLevel p v s).li = s.li := by cases p <;> rfl
@[simp] theorem setLevel_seq (p : OutPin) (v : Bool) (s : State) : (setLevel p v s).seq = s.seq := by cases p <;> rfl
@[simp] theorem setLevel_xo (p : OutPin) (v : Bool) (s : State) : (setLevel p v s).xo = s.xo := by cases p <;> rfl
@[simp] theorem setLevel_xi (p : OutPin) (v : Bool) (s : State) : (setLevel p v s).xi = s.xi := by cases p <;> rfl
@[simp] theorem setLevel_xb (p : OutPin) (v : Bool) (s : State) : (setLevel p v s).xb = s.xb := by cases p <;> rfl
@[simp] theorem setLevel_hi (p : OutPin) (v : Bool) (s : State) : (setLevel p v s).hi = s.hi := by cases p <;> rfl
@[simp] theorem setLevel_lo (p : OutPin) (v : Bool) (s : State) : (setLevel p v s).lo = s.lo := by cases p <;> rfl
@[simp] theorem setLevel_st (p : OutPin) (v : Bool) (s : State) : (setLevel p v s).st = s.st := by cases p <;> rfl
@[simp] theorem setLevel_nb (p : OutPin) (v : Bool) (s : State) : (setLevel p v s).nb = s.nb := by cases p <;> rfl
@[simp] theorem setLevel_ret (p : OutPin) (v : Bool) (s : State) : (setLevel p v s).ret = s.ret := by cases p <;> rfl
@[simp] theorem setLevel_rb (p : OutPin) (v : Bool) (s : State) : (setLevel p v s).rb = s.rb := by cases p <;> rfl
@[simp] theorem setLevel_rv (p : OutPin) (v : Bool) (s : State) : (setLevel p v s).rv = s.rv := by cases p <;> rfl
@[simp] theorem setLevel_fc (p : OutPin) (v : Bool) (s : State) : (setLevel p v s).fc = s.fc := by cases p <;> rfl
@[simp] theorem setLevel_fcmd (p : OutPin) (v : Bool) (s : State) : (setLevel p v s).fcmd = s.fcmd := by cases p <;> rfl
@[simp] theorem setLevel_trace (p : OutPin) (v : Bool) (s : State) : (setLevel p v s).trace = s.trace := by cases p <;> rfl
@[simp] theorem setLevel_miso (p : OutPin) (v : Bool) (s : State) : (setLevel p v s).miso = s.miso := by cases p <;> rfl
@[simp] theorem setLevel_drawn (p : OutPin) (v : Bool) (s : State) : (setLevel p v s).drawn = s.drawn := by cases p <;> rfl
@[simp] theorem setLevel_fresh (p : OutPin) (v : Bool) (s : State) : (setLevel p v s).fresh = s.fresh := by cases p <;> rfl
@[simp] theorem setLevel_host (p : OutPin) (v : Bool) (s : State) : (setLevel p v s).host = s.host := by cases p <;> rfl
@[simp] theorem setLevel_reads (p : OutPin) (v : Bool) (s : State) : (setLevel p v s).reads = s.reads := by cases p <;> rfl

/-! ### `pinSet` -/

@[simp] theorem pinSet_cfg (p : OutPin) (s : State) : (pinSet p s).cfg = s.cfg := by cases p <;> rfl
@[simp] theorem pinSet_csN (p : OutPin) (s : State) : (pinSet p s).csN = if p = .cs then true else s.csN := by cases p <;> rfl
@[simp] theorem pinSet_sck (p : OutPin) (s : State) : (pinSet p s).sck = if p = .sck then true else s.sck := by cases p <;> rfl
@[simp] theorem pinSet_mosi (p : OutPin) (s : State) : (pinSet p s).mosi = if p = .mosi then true else s.mosi := by cases p <;> rfl
@[simp] theorem pinSet_ei (p : OutPin) (s : State) : (pinSet p s).ei = s.ei := by cases p <;> rfl
@[simp] theorem pinSet_li (p : OutPin) (s : State) : (pinSet p s).li = s.li := by cases p <;> rfl
@[simp] theorem pinSet_seq (p : OutPin) (s : State) : (pinSet p s).seq = s.seq := by cases p <;> rfl
@[simp] theorem pinSet_xo (p : OutPin) (s : State) : (pinSet p s).xo = s.xo := by cases p <;> rfl
@[simp] theorem pinSet_xi (p : OutPin) (s : State) : (pinSet p s).xi = s.xi := by cases p <;> rfl
@[simp] theorem pinSet_xb (p : OutPin) (s : State) : (pinSet p s).xb = s.xb := by cases p <;> rfl
@[simp] theorem pinSet_hi (p : OutPin) (s : State) : (pinSet p s).hi = s.hi := by cases p <;> rfl
@[simp] theorem pinSet_lo (p : OutPin) (s : State) : (pinSet p s).lo = s.lo := by cases p <;> rfl
@[simp] theorem pinSet_st (p : OutPin) (s : State) : (pinSet p s).st = s.st := by cases p <;> rfl
@[simp] theorem pinSet_nb (p : OutPin) (s : State) : (pinSet p s).nb = s.nb := by cases p <;> rfl
@[simp] theorem pinSet_ret (p : OutPin) (s : State) : (pinSet p s).ret = s.ret := by cases p <;> rfl
@[simp] theorem pinSet_rb (p : OutPin) (s : State) : (pinSet p s).rb = s.rb := by cases p <;> rfl
@[simp] theorem pinSet_rv (p : OutPin) (s : State) : (pinSet p s).rv = s.rv := by cases p <;> rfl
@[simp] theorem pinSet_fc (p : OutPin) (s : State) : (pinSet p s).fc = s.fc := by cases p <;> rfl
@[simp] theorem pinSet_fcmd (p : OutPin) (s : State) : (pinSet p s).fcmd = s.fcmd := by cases p <;> rfl
@[simp] theorem pinSet_trace (p : OutPin) (s : State) : (pinSet p s).trace = s.trace ++ [.set p] := by cases p <;> rfl
@[simp] theorem pinSet_miso (p : OutPin) (s : State) : (pinSet p s).miso = s.miso := by cases p <;> rfl
@[simp] theorem pinSet_drawn (p : OutPin) (s : State) : (pinSet p s).drawn = s.drawn := by cases p <;> rfl
@[simp] theorem pinSet_fresh (p : OutPin) (s : State) : (pinSet p s).fresh = s.fresh := by cases p <;> rfl
@[simp] theorem pinSet_host (p : OutPin) (s : State) : (pinSet p s).host = s.host := by cases p <;> rfl
@[simp] theorem pinSet_reads (p : OutPin) (s : State) : (pinSet p s).reads = s.reads := by cases p <;> rfl

/-! ### `pinClear` -/

@[simp] theorem pinClear_cfg (p : OutPin) (s : State) : (pinClear p s).cfg = s.cfg := by cases p <;> rfl
@[simp] theorem pinClear_csN (p : OutPin) (s : State) : (pinClear p s).csN = if p = .cs then false else s.csN := by cases p <;> rfl
@[simp] theorem pinClear_sck (p : OutPin) (s : State) : (pinClear p s).sck = if p = .sck then false else s.sck := by cases p <;> rfl
@[simp] theorem pinClear_mosi (p : OutPin) (s : State) : (pinClear p s).mosi = if p = .mosi then false else s.mosi := by cases p <;> rfl
@[simp] theorem pinClear_ei (p : OutPin) (s : State) : (pinClear p s).ei = s.ei := by cases p <;> rfl
@[simp] theorem pinClear_li (p : OutPin) (s : State) : (pinClear p s).li = s.li := by cases p <;> rfl
@[simp] theorem pinClear_seq (p : OutPin) (s : State) : (pinClear p s).seq = s.seq := by cases p <;> rfl
@[simp] theorem pinClear_xo (p : OutPin) (s : State) : (pinClear p s).xo = s.xo := by cases p <;> rfl
@[simp] theorem pinClear_xi (p : OutPin) (s : State) : (pinClear p s).xi = s.xi := by cases p <;> rfl
@[simp] theorem pinClear_xb (p : OutPin) (s : State) : (pinClear p s).xb = s.xb := by cases p <;> rfl
@[simp] theorem pinClear_hi (p : OutPin) (s : State) : (pinClear p s).hi = s.hi := by cases p <;> rfl
@[simp] theorem pinClear_lo (p : OutPin) (s : State) : (pinClear p s).lo = s.lo := by cases p <;> rfl
@[simp] theorem pinClear_st (p : OutPin) (s : State) : (pinClear p s).st = s.st := by cases p <;> rfl
@[simp] theorem pinClear_nb (p : OutPin) (s : State) : (pinClear p s).nb = s.nb := by cases p <;> rfl
@[simp] theorem pinClear_ret (p : OutPin) (s : State) : (pinClear p s).ret = s.ret := by cases p <;> rfl
@[simp] theorem pinClear_rb (p : OutPin) (s : State) : (pinClear p s).rb = s.rb := by cases p <;> rfl
@[simp] theorem pinClear_rv (p : OutPin) (s : State) : (pinClear p s).rv = s.rv := by cases p <;> rfl
@[simp] theorem pinClear_fc (p : OutPin) (s : State) : (pinClear p s).fc = s.fc := by cases p <;> rfl
@[simp] theorem pinClear_fcmd (p : OutPin) (s : State) : (pinClear p s).fcmd = s.fcmd := by cases p <;> rfl
@[simp] theorem pinClear_trace (p : OutPin) (s : State) : (pinClear p s).trace = s.trace ++ [.clear p] := by cases p <;> rfl
@[simp] theorem pinClear_miso (p : OutPin) (s : State) : (pinClear p s).miso = s.miso := by cases p <;> rfl
@[simp] theorem pinClear_drawn (p : OutPin) (s : State) : (pinClear p s).drawn = s.drawn := by cases p <;> rfl
@[simp] theorem pinClear_fresh (p : OutPin) (s : State) : (pinClear p s).fresh = s.fresh := by cases p <;> rfl
@[simp] theorem pinClear_host (p : OutPin) (s : State) : (pinClear p s).host = s.host := by cases p <;> rfl
@[simp] theorem pinClear_reads (p : OutPin) (s : State) : (pinClear p s).reads = s.reads := by cases p <;> rfl

/-! ### `State.afterDraws` -/

@[simp] theorem State.afterDraws_cfg (n : Nat) (s : State) : (s.afterDraws n).cfg = s.cfg := rfl
@[simp] theorem State.afterDraws_csN (n : Nat) (s : State) : (s.afterDraws n).csN = s.csN := rfl
@[simp] theorem State.afterDraws_sck (n : Nat) (s : State) : (s.afterDraws n).sck = s.sck := rfl
@[simp] theorem State.afterDraws_mosi (n : Nat) (s : State) : (s.afterDraws n).mosi = s.mosi := rfl
@[simp] theorem State.afterDraws_ei (n : Nat) (s : State) : (s.afterDraws n).ei = s.ei := rfl
@[simp] theorem State.afterDraws_li (n : Nat) (s : State) : (s.afterDraws n).li = s.li := rfl
@[simp] theorem State.afterDraws_seq (n : Nat) (s : State) : (s.afterDraws n).seq = s.seq := rfl
@[simp] theorem State.afterDraws_xo (n : Nat) (s : State) : (s.afterDraws n).xo = s.xo := rfl
@[simp] theorem State.afterDraws_xi (n : Nat) (s : State) : (s.afterDraws n).xi = s.xi := rfl
@[simp] theorem State.afterDraws_xb (n : Nat) (s : State) : (s.afterDraws n).xb = s.xb := rfl
@[simp] theorem State.afterDraws_hi (n : Nat) (s : State) : (s.afterDraws n).hi = s.hi := rfl
@[simp] theorem State.afterDraws_lo (n : Nat) (s : State) : (s.afterDraws n).lo = s.lo := rfl
@[simp] theorem State.afterDraws_st (n : Nat) (s : State) : (s.afterDraws n).st = s.st := rfl
@[simp] theorem State.afterDraws_nb (n : Nat) (s : State) : (s.afterDraws n).nb = s.nb := rfl
@[simp] theorem State.afterDraws_ret (n : Nat) (s : State) : (s.afterDraws n).ret = s.ret := rfl
@[simp] theorem State.afterDraws_rb (n : Nat) (s : State) : (s.afterDraws n).rb = s.rb := rfl
@[simp] theorem State.afterDraws_rv (n : Nat) (s : State) : (s.afterDraws n).rv = s.rv := rfl
@[simp] theorem State.afterDraws_fc (n : Nat) (s : State) : (s.afterDraws n).fc = s.fc := rfl
@[simp] theorem State.afterDraws_fcmd (n : Nat) (s : State) : (s.afterDraws n).fcmd = s.fcmd := rfl
@[simp] theorem State.afterDraws_trace (n : Nat) (s : State) : (s.afterDraws n).trace = s.trace := rfl
@[simp] theorem State.afterDraws_miso (n : Nat) (s : State) : (s.afterDraws n).miso = s.miso.drop n := rfl
@[simp] theorem State.afterDraws_drawn (n : Nat) (s : State) : (s.afterDraws n).drawn = s.drawn + n := rfl
@[simp] theorem State.afterDraws_fresh (n : Nat) (s : State) : (s.afterDraws n).fresh = s.fresh := rfl
@[simp] theorem State.afterDraws_host (n : Nat) (s : State) : (s.afterDraws n).host = s.host := rfl
@[simp] theorem State.afterDraws_reads (n : Nat) (s : State) : (s.afterDraws n).reads = s.reads := rfl

/-! ### `sampleMiso` -/

@[simp] theorem sampleMiso_cfg (s : State) : (sampleMiso s).cfg = s.cfg := rfl
@[simp] theorem sampleMiso_csN (s : State) : (sampleMiso s).csN = s.csN := rfl
@[simp] theorem sampleMiso_sck (s : State) : (sampleMiso s).sck = s.sck := rfl
@[simp] theorem sampleMiso_mosi (s : State) : (sampleMiso s).mosi = s.mosi := rfl
@[simp] theorem sampleMiso_ei (s : State) : (sampleMiso s).ei = s.ei := rfl
@[simp] theorem sampleMiso_li (s : State) : (sampleMiso s).li = s.li := rfl
@[simp] theorem sampleMiso_seq (s : State) : (sampleMiso s).seq = s.seq := rfl
@[simp] theorem sampleMiso_xo (s : State) : (sampleMiso s).xo = s.xo := rfl
@[simp] theorem sampleMiso_xi (s : State) : (sampleMiso s).xi = shiftIn s.xi (s.misoAt 0) := rfl
@[simp] theorem sampleMiso_xb (s : State) : (sampleMiso s).xb = s.xb := rfl
@[simp] theorem sampleMiso_hi (s : State) : (sampleMiso s).hi = s.hi := rfl
@[simp] theorem sampleMiso_lo (s : State) : (sampleMiso s).lo = s.lo := rfl
@[simp] theorem sampleMiso_st (s : State) : (sampleMiso s).st = s.st := rfl
@[simp] theorem sampleMiso_nb (s : State) : (sampleMiso s).nb = s.nb := rfl
@[simp] theorem sampleMiso_ret (s : State) : (sampleMiso s).ret = s.ret := rfl
@[simp] theorem sampleMiso_rb (s : State) : (sampleMiso s).rb = s.rb := rfl
@[simp] theorem sampleMiso_rv (s : State) : (sampleMiso s).rv = s.rv := rfl
@[simp] theorem sampleMiso_fc (s : State) : (sampleMiso s).fc = s.fc := rfl
@[simp] theorem sampleMiso_fcmd (s : State) : (sampleMiso s).fcmd = s.fcmd := rfl
@[simp] theorem sampleMiso_trace (s : State) : (sampleMiso s).trace = s.trace ++ [.read (s.misoAt 0)] := rfl
@[simp] theorem sampleMiso_miso (s : State) : (sampleMiso s).miso = s.miso.drop 1 := rfl
@[simp] theorem sampleMiso_drawn (s : State) : (sampleMiso s).drawn = s.drawn + 1 := rfl
@[simp] theorem sampleMiso_fresh (s : State) : (sampleMiso s).fresh = s.fresh := rfl
@[simp] theorem sampleMiso_host (s : State) : (sampleMiso s).host = s.host := rfl
@[simp] theorem sampleMiso_reads (s : State) : (sampleMiso s).reads = s.reads := rfl

/-! ### `forgetXfer` -/

@[simp] theorem forgetXfer_cfg (s : State) : (forgetXfer s).cfg = s.cfg := rfl
@[simp] theorem forgetXfer_csN (s : State) : (forgetXfer s).csN = s.csN := rfl
@[simp] theorem forgetXfer_sck (s : State) : (forgetXfer s).sck = s.sck := rfl
@[simp] theorem forgetXfer_mosi (s : State) : (forgetXfer s).mosi = s.mosi := rfl
@[simp] theorem forgetXfer_ei (s : State) : (forgetXfer s).ei = s.ei := rfl
@[simp] theorem forgetXfer_li (s : State) : (forgetXfer s).li = s.li := rfl
@[simp] theorem forgetXfer_seq (s : State) : (forgetXfer s).seq = s.seq := rfl
@[simp] theorem forgetXfer_xo (s : State) : (forgetXfer s).xo = Config.freeXo s.fresh := rfl
@[simp] theorem forgetXfer_xi (s : State) : (forgetXfer s).xi = Config.freeXi s.fresh := rfl
@[simp] theorem forgetXfer_xb (s : State) : (forgetXfer s).xb = Config.freeXb s.fresh := rfl
@[simp] theorem forgetXfer_hi (s : State) : (forgetXfer s).hi = s.hi := rfl
@[simp] theorem forgetXfer_lo (s : State) : (forgetXfer s).lo = s.lo := rfl
@[simp] theorem forgetXfer_st (s : State) : (forgetXfer s).st = s.st := rfl
@[simp] theorem forgetXfer_nb (s : State) : (forgetXfer s).nb = s.nb := rfl
@[simp] theorem forgetXfer_ret (s : State) : (forgetXfer s).ret = s.ret := rfl
@[simp] theorem forgetXfer_rb (s : State) : (forgetXfer s).rb = s.rb := rfl
@[simp] theorem forgetXfer_rv (s : State) : (forgetXfer s).rv = s.rv := rfl
@[simp] theorem forgetXfer_fc (s : State) : (forgetXfer s).fc = s.fc := rfl
@[simp] theorem forgetXfer_fcmd (s : State) : (forgetXfer s).fcmd = s.fcmd := rfl
@[simp] theorem forgetXfer_trace (s : State) : (forgetXfer s).trace = s.trace := rfl
@[simp] theorem forgetXfer_miso (s : State) : (forgetXfer s).miso = s.miso := rfl
@[simp] theorem forgetXfer_drawn (s : State) : (forgetXfer s).drawn = s.drawn := rfl
@[simp] theorem forgetXfer_fresh (s : State) : (forgetXfer s).fresh = s.fresh + 1 := rfl
@[simp] theorem forgetXfer_host (s : State) : (forgetXfer s).host = s.host := rfl
@[simp] theorem forgetXfer_reads (s : State) : (forgetXfer s).reads = s.reads := rfl

/-! ### `forgetPoll` -/

@[simp] theorem forgetPoll_cfg (s : State) : (forgetPoll s).cfg = s.cfg := rfl
@[simp] theorem forgetPoll_csN (s : State) : (forgetPoll s).csN = s.csN := rfl
@[simp] theorem forgetPoll_sck (s : State) : (forgetPoll s).sck = s.sck := rfl
@[simp] theorem forgetPoll_mosi (s : State) : (forgetPoll s).mosi = s.mosi := rfl
@[simp] theorem forgetPoll_ei (s : State) : (forgetPoll s).ei = s.ei := rfl
@[simp] theorem forgetPoll_li (s : State) : (forgetPoll s).li = s.li := rfl
@[simp] theorem forgetPoll_seq (s : State) : (forgetPoll s).seq = s.seq := rfl
@[simp] theorem forgetPoll_xo (s : State) : (forgetPoll s).xo = s.xo := rfl
@[simp] theorem forgetPoll_xi (s : State) : (forgetPoll s).xi = s.xi := rfl
@[simp] theorem forgetPoll_xb (s : State) : (forgetPoll s).xb = s.xb := rfl
@[simp] theorem forgetPoll_hi (s : State) : (forgetPoll s).hi = Config.freeHi s.fresh := rfl
@[simp] theorem forgetPoll_lo (s : State) : (forgetPoll s).lo = Config.freeLo s.fresh := rfl
@[simp] theorem forgetPoll_st (s : State) : (forgetPoll s).st = Config.freeSt s.fresh := rfl
@[simp] theorem forgetPoll_nb (s : State) : (forgetPoll s).nb = Config.freeNb s.fresh := rfl
@[simp] theorem forgetPoll_ret (s : State) : (forgetPoll s).ret = s.ret := rfl
@[simp] theorem forgetPoll_rb (s : State) : (forgetPoll s).rb = s.rb := rfl
@[simp] theorem forgetPoll_rv (s : State) : (forgetPoll s).rv = s.rv := rfl
@[simp] theorem forgetPoll_fc (s : State) : (forgetPoll s).fc = s.fc := rfl
@[simp] theorem forgetPoll_fcmd (s : State) : (forgetPoll s).fcmd = s.fcmd := rfl
@[simp] theorem forgetPoll_trace (s : State) : (forgetPoll s).trace = s.trace := rfl
@[simp] theorem forgetPoll_miso (s : State) : (forgetPoll s).miso = s.miso := rfl
@[simp] theorem forgetPoll_drawn (s : State) : (forgetPoll s).drawn = s.drawn := rfl
@[simp] theorem forgetPoll_fresh (s : State) : (forgetPoll s).fresh = s.fresh + 1 := rfl
@[simp] theorem forgetPoll_host (s : State) : (forgetPoll s).host = s.host := rfl
@[simp] theorem forgetPoll_reads (s : State) : (forgetPoll s).reads = s.reads := rfl

/-! ### `complete` -/

@[simp] theorem complete_cfg (w : Word) (s : State) : (complete w s).cfg = s.cfg := rfl
@[simp] theorem complete_csN (w : Word) (s : State) : (complete w s).csN = s.csN := rfl
@[simp] theorem complete_sck (w : Word) (s : State) : (complete w s).sck = s.sck := rfl
@[simp] theorem complete_mosi (w : Word) (s : State) : (complete w s).mosi = s.mosi := rfl
@[simp] theorem complete_ei (w : Word) (s : State) : (complete w s).ei = s.ei := rfl
@[simp] theorem complete_li (w : Word) (s : State) : (complete w s).li = s.li := rfl
@[simp] theorem complete_seq (w : Word) (s : State) : (complete w s).seq = .idle := rfl
@[simp] theorem complete_xo (w : Word) (s : State) : (complete w s).xo = s.xo := rfl
@[simp] theorem complete_xi (w : Word) (s : State) : (complete w s).xi = s.xi := rfl
@[simp] theorem complete_xb (w : Word) (s : State) : (complete w s).xb = s.xb := rfl
@[simp] theorem complete_hi (w : Word) (s : State) : (complete w s).hi = s.hi := rfl
@[simp] theorem complete_lo (w : Word) (s : State) : (complete w s).lo = s.lo := rfl
@[simp] theorem complete_st (w : Word) (s : State) : (complete w s).st = s.st := rfl
@[simp] theorem complete_nb (w : Word) (s : State) : (complete w s).nb = s.nb := rfl
@[simp] theorem complete_ret (w : Word) (s : State) : (complete w s).ret = s.ret := rfl
@[simp] theorem complete_rb (w : Word) (s : State) : (complete w s).rb = s.rb := rfl
@[simp] theorem complete_rv (w : Word) (s : State) : (complete w s).rv = s.rv := rfl
@[simp] theorem complete_fc (w : Word) (s : State) : (complete w s).fc = s.fc := rfl
@[simp] theorem complete_fcmd (w : Word) (s : State) : (complete w s).fcmd = s.fcmd := rfl
@[simp] theorem complete_trace (w : Word) (s : State) : (complete w s).trace = s.trace ++ [.done w] := rfl
@[simp] theorem complete_miso (w : Word) (s : State) : (complete w s).miso = s.miso := rfl
@[simp] theorem complete_drawn (w : Word) (s : State) : (complete w s).drawn = s.drawn := rfl
@[simp] theorem complete_fresh (w : Word) (s : State) : (complete w s).fresh = s.fresh := rfl
@[simp] theorem complete_host (w : Word) (s : State) : (complete w s).host = s.host := rfl
@[simp] theorem complete_reads (w : Word) (s : State) : (complete w s).reads = s.reads := rfl

/-! ### `issue` -/

@[simp] theorem issue_cfg (w : Word) (k : List Op) (s : State) : (issue w k s).cfg = s.cfg := rfl
@[simp] theorem issue_csN (w : Word) (k : List Op) (s : State) : (issue w k s).csN = s.csN := rfl
@[simp] theorem issue_sck (w : Word) (k : List Op) (s : State) : (issue w k s).sck = s.sck := rfl
@[simp] theorem issue_mosi (w : Word) (k : List Op) (s : State) : (issue w k s).mosi = s.mosi := rfl
@[simp] theorem issue_ei (w : Word) (k : List Op) (s : State) : (issue w k s).ei = s.ei := rfl
@[simp] theorem issue_li (w : Word) (k : List Op) (s : State) : (issue w k s).li = s.li := rfl
@[simp] theorem issue_seq (w : Word) (k : List Op) (s : State) : (issue w k s).seq = .run w k := rfl
@[simp] theorem issue_xo (w : Word) (k : List Op) (s : State) : (issue w k s).xo = s.xo := rfl
@[simp] theorem issue_xi (w : Word) (k : List Op) (s : State) : (issue w k s).xi = s.xi := rfl
@[simp] theorem issue_xb (w : Word) (k : List Op) (s : State) : (issue w k s).xb = s.xb := rfl
@[simp] theorem issue_hi (w : Word) (k : List Op) (s : State) : (issue w k s).hi = s.hi := rfl
@[simp] theorem issue_lo (w : Word) (k : List Op) (s : State) : (issue w k s).lo = s.lo := rfl
@[simp] theorem issue_st (w : Word) (k : List Op) (s : State) : (issue w k s).st = s.st := rfl
@[simp] theorem issue_nb (w : Word) (k : List Op) (s : State) : (issue w k s).nb = s.nb := rfl
@[simp] theorem issue_ret (w : Word) (k : List Op) (s : State) : (issue w k s).ret = s.ret := rfl
@[simp] theorem issue_rb (w : Word) (k : List Op) (s : State) : (issue w k s).rb = s.rb := rfl
@[simp] theorem issue_rv (w : Word) (k : List Op) (s : State) : (issue w k s).rv = s.rv := rfl
@[simp] theorem issue_fc (w : Word) (k : List Op) (s : State) : (issue w k s).fc = s.fc := rfl
@[simp] theorem issue_fcmd (w : Word) (k : List Op) (s : State) : (issue w k s).fcmd = s.fcmd := rfl
@[simp] theorem issue_trace (w : Word) (k : List Op) (s : State) : (issue w k s).trace = s.trace ++ [.issue w] := rfl
@[simp] theorem issue_miso (w : Word) (k : List Op) (s : State) : (issue w k s).miso = s.miso := rfl
@[simp] theorem issue_drawn (w : Word) (k : List Op) (s : State) : (issue w k s).drawn = s.drawn := rfl
@[simp] theorem issue_fresh (w : Word) (k : List Op) (s : State) : (issue w k s).fresh = s.fresh := rfl
@[simp] theorem issue_host (w : Word) (k : List Op) (s : State) : (issue w k s).host = s.host := rfl
@[simp] theorem issue_reads (w : Word) (k : List Op) (s : State) : (issue w k s).reads = s.reads := rfl

/-! ### `placeCommand` -/

@[simp] theorem placeCommand_cfg (w : Word) (s : State) : (placeCommand w s).cfg = s.cfg := rfl
@[simp] theorem placeCommand_csN (w : Word) (s : State) : (placeCommand w s).csN = s.csN := rfl
@[simp] theorem placeCommand_sck (w : Word) (s : State) : (placeCommand w s).sck = s.sck := rfl
@[simp] theorem placeCommand_mosi (w : Word) (s : State) : (placeCommand w s).mosi = s.mosi := rfl
@[simp] theorem placeCommand_ei (w : Word) (s : State) : (placeCommand w s).ei = s.ei := rfl
@[simp] theorem placeCommand_li (w : Word) (s : State) : (placeCommand w s).li = s.li := rfl
@[simp] theorem placeCommand_seq (w : Word) (s : State) : (placeCommand w s).seq = .idle := rfl
@[simp] theorem placeCommand_xo (w : Word) (s : State) : (placeCommand w s).xo = s.xo := rfl
@[simp] theorem placeCommand_xi (w : Word) (s : State) : (placeCommand w s).xi = s.xi := rfl
@[simp] theorem placeCommand_xb (w : Word) (s : State) : (placeCommand w s).xb = s.xb := rfl
@[simp] theorem placeCommand_hi (w : Word) (s : State) : (placeCommand w s).hi = s.hi := rfl
@[simp] theorem placeCommand_lo (w : Word) (s : State) : (placeCommand w s).lo = s.lo := rfl
@[simp] theorem placeCommand_st (w : Word) (s : State) : (placeCommand w s).st = s.st := rfl
@[simp] theorem placeCommand_nb (w : Word) (s : State) : (placeCommand w s).nb = s.nb := rfl
@[simp] theorem placeCommand_ret (w : Word) (s : State) : (placeCommand w s).ret = s.ret := rfl
@[simp] theorem placeCommand_rb (w : Word) (s : State) : (placeCommand w s).rb = s.rb := rfl
@[simp] theorem placeCommand_rv (w : Word) (s : State) : (placeCommand w s).rv = s.rv := rfl
@[simp] theorem placeCommand_fc (w : Word) (s : State) : (placeCommand w s).fc = .none := rfl
@[simp] theorem placeCommand_fcmd (w : Word) (s : State) : (placeCommand w s).fcmd = s.fcmd := rfl
@[simp] theorem placeCommand_trace (w : Word) (s : State) : (placeCommand w s).trace = s.trace := rfl
@[simp] theorem placeCommand_miso (w : Word) (s : State) : (placeCommand w s).miso = s.miso := rfl
@[simp] theorem placeCommand_drawn (w : Word) (s : State) : (placeCommand w s).drawn = s.drawn := rfl
@[simp] theorem placeCommand_fresh (w : Word) (s : State) : (placeCommand w s).fresh = s.fresh := rfl
@[simp] theorem placeCommand_host (w : Word) (s : State) : (placeCommand w s).host = .write cmdOffset 32 w :: s.host := rfl
@[simp] theorem placeCommand_reads (w : Word) (s : State) : (placeCommand w s).reads = s.reads := rfl

/-! ### `doReset` -/

@[simp] theorem doReset_cfg (s : State) : (doReset s).cfg = s.cfg := rfl
@[simp] theorem doReset_csN (s : State) : (doReset s).csN = State.reset.csN := rfl
@[simp] theorem doReset_sck (s : State) : (doReset s).sck = State.reset.sck := rfl
@[simp] theorem doReset_mosi (s : State) : (doReset s).mosi = State.reset.mosi := rfl
@[simp] theorem doReset_ei (s : State) : (doReset s).ei = State.reset.ei := rfl
@[simp] theorem doReset_li (s : State) : (doReset s).li = State.reset.li := rfl
@[simp] theorem doReset_seq (s : State) : (doReset s).seq = State.reset.seq := rfl
@[simp] theorem doReset_xo (s : State) : (doReset s).xo = State.reset.xo := rfl
@[simp] theorem doReset_xi (s : State) : (doReset s).xi = State.reset.xi := rfl
@[simp] theorem doReset_xb (s : State) : (doReset s).xb = State.reset.xb := rfl
@[simp] theorem doReset_hi (s : State) : (doReset s).hi = State.reset.hi := rfl
@[simp] theorem doReset_lo (s : State) : (doReset s).lo = State.reset.lo := rfl
@[simp] theorem doReset_st (s : State) : (doReset s).st = State.reset.st := rfl
@[simp] theorem doReset_nb (s : State) : (doReset s).nb = State.reset.nb := rfl
@[simp] theorem doReset_ret (s : State) : (doReset s).ret = State.reset.ret := rfl
@[simp] theorem doReset_rb (s : State) : (doReset s).rb = State.reset.rb := rfl
@[simp] theorem doReset_rv (s : State) : (doReset s).rv = State.reset.rv := rfl
@[simp] theorem doReset_fc (s : State) : (doReset s).fc = State.reset.fc := rfl
@[simp] theorem doReset_fcmd (s : State) : (doReset s).fcmd = State.reset.fcmd := rfl
@[simp] theorem doReset_trace (s : State) : (doReset s).trace = s.trace ++ resetEvents := rfl
@[simp] theorem doReset_miso (s : State) : (doReset s).miso = s.miso := rfl
@[simp] theorem doReset_drawn (s : State) : (doReset s).drawn = s.drawn := rfl
@[simp] theorem doReset_fresh (s : State) : (doReset s).fresh = s.fresh := rfl
@[simp] theorem doReset_host (s : State) : (doReset s).host = s.host := rfl
@[simp] theorem doReset_reads (s : State) : (doReset s).reads = s.reads := rfl

/-! ### The views -/

/-- Drawing `n` samples moves the draws to come up by `n`. -/
theorem State.afterDraws_misoAt (s : State) (n j : Nat) : (s.afterDraws n).misoAt j = s.misoAt (n + j) := by
  simp [State.misoAt, List.getElem?_drop, Nat.add_assoc]

/-- Drawing nothing changes nothing. -/
theorem State.afterDraws_zero (s : State) : s.afterDraws 0 = s := by
  simp [State.afterDraws]

/-- Draws add up. -/
theorem State.afterDraws_afterDraws (s : State) (m n : Nat) : (s.afterDraws m).afterDraws n = s.afterDraws (m + n) := by
  simp [State.afterDraws, Nat.add_assoc]

end Sys2Proof.Machine
end

