-- ==== Sys2Proof/Laws/Ops.lean ====
section
/-! SUPPORT. What each shared operation can do, said once: acceptance of a word, fault entry, the block's step, and the
primitives and assignments, which leave alone everything the sequencer relies on. -/

namespace Sys2Proof.Machine

/-! ### Acceptance and fault entry -/

/-- A word written in the fault state is ignored (R193). -/
theorem accept_of_fault (w : Word) (check : Option FaultCode) (k : List Op) {s : State} (h : s.fc ≠ .none) :
    accept w check k s = s := by
  simp [accept, State.flt, h]

/-- A word written while a command runs raises `OVERRUN` (R182). -/
theorem accept_of_running (w : Word) (check : Option FaultCode) (k : List Op) {s : State} {w' : Word} {k' : List Op}
    (hf : s.fc = .none) (hs : s.seq = .run w' k') : accept w check k s = faultEntry .overrun w s := by
  simp [accept, State.flt, State.bsy, hf, hs]

/-- A word whose check fails is issued, and the fault is entered (R190). -/
theorem accept_of_check (w : Word) (c : FaultCode) (k : List Op) {s : State} (h : s.fc = .none ∧ s.seq = .idle) :
    accept w (some c) k s = faultEntry c w (issue w k s) := by
  simp [accept, State.flt, State.bsy, h.1, h.2]

/-- A word whose checks pass is issued, and the sequencer stands at its first primitive (R41). -/
theorem accept_of_pass (w : Word) (k : List Op) {s : State} (h : s.fc = .none ∧ s.seq = .idle) :
    accept w none k s = settle w k (issue w k s) := by
  simp [accept, State.flt, State.bsy, h.1, h.2]

/-- Everything that fault entry does outside the temporaries (R191). -/
theorem faultEntry_effect (c : FaultCode) (w : Word) (s : State) :
    let t := faultEntry c w s
    t.fc = c ∧ t.fcmd = w ∧ t.seq = .idle ∧ t.csN = true ∧ t.sck = false ∧ t.mosi = s.mosi
      ∧ t.ei = s.ei ∧ t.li = s.li ∧ t.rb = s.rb ∧ t.rv = s.rv ∧ t.cfg = s.cfg ∧ t.host = s.host ∧ t.reads = s.reads
      ∧ t.miso = s.miso ∧ t.drawn = s.drawn
      ∧ t.trace = s.trace ++ [.fault c w] ++ (if s.sck then [.clear .sck] else []) ++ (if s.csN then [] else [.set .cs]) := by
  cases hk : s.sck <;> cases hc : s.csN <;> simp [faultEntry, hk, hc]

/-! ### What the primitives and assignments leave alone -/

/-- One line of straight pseudocode: no loop test and no raised fault. -/
def Op.straight : Op → Bool
  | .act (.raise _) => false
  | .act _ => true
  | .let_ _ => true
  | .pollTest => false

/-- The effect of one line of straight pseudocode on the state. -/
def Op.apply (o : Op) (s : State) : State :=
  match o with
  | .act p => carryOut 0 p s
  | .let_ a => assign a s
  | .pollTest => s

/-- The effect of straight pseudocode on the state. -/
def runOps : List Op → State → State
  | [], s => s
  | o :: k, s => runOps k (o.apply s)

/-- The primitives of pseudocode, one step each. -/
def primCount : List Op → Nat
  | [] => 0
  | .act _ :: k => primCount k + 1
  | .let_ _ :: k => primCount k
  | .pollTest :: k => primCount k

theorem runOps_append (a b : List Op) (s : State) : runOps (a ++ b) s = runOps b (runOps a s) := by
  induction a generalizing s with
  | nil => rfl
  | cons o a ih => exact ih (o.apply s)

theorem primCount_append (a b : List Op) : primCount (a ++ b) = primCount a + primCount b := by
  induction a with
  | nil => simp [primCount]
  | cons o a ih => cases o <;> simp [primCount, ih]; omega

/-- The word a primitive belongs to matters only to a raised fault. -/
theorem carryOut_word (w w' : Word) (p : Prim) (s : State) (h : Op.straight (.act p) = true) :
    carryOut w p s = carryOut w' p s := by
  cases p <;> first | rfl | simp [Op.straight] at h

/-- The state with its sequencer set. -/
def State.withSeq (s : State) (q : Seq) : State := { s with seq := q }

/-- Straight pseudocode neither reads nor writes the sequencer. -/
theorem Op.apply_withSeq (o : Op) (q : Seq) (s : State) (h : o.straight = true) :
    o.apply (s.withSeq q) = (o.apply s).withSeq q := by
  cases o with
  | act p =>
    cases p with
    | drive =>
      cases hb : s.xo.getLsbD s.xb.toNat <;>
        simp [Op.apply, carryOut, driveMosi, State.withSeq, hb, pinSet, pinClear, setLevel, emit]
    | set p => cases p <;> rfl
    | clear p => cases p <;> rfl
    | sample => rfl
    | delay d => rfl
    | raise c => simp [Op.straight] at h
  | let_ a => cases a <;> rfl
  | pollTest => rfl

/-- Straight pseudocode keeps the fault code. -/
theorem Op.apply_fc (o : Op) (s : State) (h : o.straight = true) : (o.apply s).fc = s.fc := by
  cases o with
  | act p =>
    cases p with
    | drive => simp only [Op.apply, carryOut, driveMosi]; split <;> rfl
    | set p => cases p <;> rfl
    | clear p => cases p <;> rfl
    | sample => rfl
    | delay d => rfl
    | raise c => simp [Op.straight] at h
  | let_ a => cases a <;> rfl
  | pollTest => rfl

/-- Settling overwrites the sequencer, whatever it held. -/
theorem settle_withSeq (w : Word) (k : List Op) (q : Seq) (s : State) : settle w k (s.withSeq q) = settle w k s := by
  induction k generalizing s with
  | nil => rfl
  | cons o k ih =>
    cases o with
    | act p => rfl
    | let_ a =>
      have h := Op.apply_withSeq (.let_ a) q s rfl
      simp only [settle]
      simp only [Op.apply] at h
      rw [h, ih]
    | pollTest =>
      have h : forgetPoll { s.withSeq q with nb := s.nb + 1, ret := s.st }
          = (forgetPoll { s with nb := s.nb + 1, ret := s.st }).withSeq q := rfl
      simp only [settle]
      change (if busyFlag s.st then if limitReached s.cfg (s.nb + 1) then _ else _
        else settle w k (forgetPoll { s.withSeq q with nb := s.nb + 1, ret := s.st })) = _
      rw [h, ih]
      rfl

/-! ### The block's steps -/

/-- The block takes no step in the fault state (R193). -/
theorem blockTurn_of_fault {s : State} (h : s.fc ≠ .none) : blockTurn s = s := by
  simp [blockTurn, State.flt, h]

/-- The block takes no step when it is idle (R210). -/
theorem blockTurn_of_idle {s : State} (h : s.seq = .idle) : blockTurn s = s := by
  simp [blockTurn, h]

/-- The block's step of a running command (R25). -/
theorem blockTurn_of_running {s : State} {w : Word} {k : List Op} (hf : s.fc = .none) (hs : s.seq = .run w k) :
    blockTurn s = advance w k s := by
  simp [blockTurn, State.flt, hf, hs]

/-- Steps of the block add up. -/
theorem turns_add (m n : Nat) (s : State) : turns (m + n) s = turns n (turns m s) := by
  induction m generalizing s with
  | zero => simp [turns]
  | succ m ih => rw [Nat.succ_add]; exact ih (blockTurn s)

/-- Straight pseudocode takes one step a primitive, and has its effect (R25). -/
theorem turns_straight (w : Word) (c k : List Op) (s : State) (hc : c.all Op.straight = true) (hf : s.fc = .none) :
    turns (primCount c) (settle w (c ++ k) s) = settle w k (runOps c s) := by
  induction c generalizing s with
  | nil => rfl
  | cons o c ih =>
    have ho : o.straight = true := by simp only [List.all_cons, Bool.and_eq_true] at hc; exact hc.1
    have hc' : c.all Op.straight = true := by simp only [List.all_cons, Bool.and_eq_true] at hc; exact hc.2
    have hf' : (o.apply s).fc = .none := by rw [Op.apply_fc o s ho, hf]
    cases o with
    | let_ a => exact ih (assign a s) hc' hf'
    | pollTest => simp [Op.straight] at ho
    | act p =>
      have hstep : blockTurn (settle w (.act p :: c ++ k) s) = settle w (c ++ k) (carryOut w p s) := by
        have hs : settle w (.act p :: c ++ k) s = s.withSeq (.run w (.act p :: (c ++ k))) := rfl
        rw [hs, blockTurn_of_running (s := s.withSeq (.run w (.act p :: (c ++ k)))) hf rfl]
        have hadv : advance w (.act p :: (c ++ k)) (s.withSeq (.run w (.act p :: (c ++ k))))
            = settle w (c ++ k) (carryOut w p (s.withSeq (.run w (.act p :: (c ++ k))))) := by
          cases p <;> first | rfl | simp [Op.straight] at ho
        rw [hadv, carryOut_word w 0 p _ ho, carryOut_word w 0 p s ho]
        have := Op.apply_withSeq (.act p) (.run w (.act p :: (c ++ k))) s ho
        simp only [Op.apply] at this
        rw [this, settle_withSeq]
      change turns (primCount c) (blockTurn (settle w (.act p :: c ++ k) s)) = _
      rw [hstep, carryOut_word w 0 p s ho]
      exact ih (carryOut 0 p s) hc' hf'

end Sys2Proof.Machine
end

