-- ==== Sys2Proof/Laws/Run.lean ====
section
/-! SUPPORT. What the transport's pseudocode does to a state: a bit cell, an XFER, a write transaction and a read
transaction, each said once. -/

namespace Sys2Proof.Machine

/-! ### One bit cell -/

/-- The effect of the bit cell `i` (R85, R102). -/
def cellDone (i : BitVec 3) (s : State) : State :=
  { s.afterDraws 1 with
    xb := i, mosi := s.xo.getLsbD i.toNat, xi := shiftIn s.xi (s.misoAt 0), sck := false,
    trace := s.trace ++ cellEvents (s.xo.getLsbD i.toNat) (s.misoAt 0) }

theorem runOps_bitCode (i : BitVec 3) (s : State) : runOps (bitCode i) s = cellDone i s := by
  have hd : driveMosi { s with xb := i } = emit (if s.xo.getLsbD i.toNat then .set .mosi else .clear .mosi)
      { s with xb := i, mosi := s.xo.getLsbD i.toNat } := by
    cases h : s.xo.getLsbD i.toNat <;> simp [driveMosi, h, pinSet, pinClear, setLevel]
  simp only [bitCode, runOps, Op.apply, assign, carryOut, hd]
  simp [cellDone, cellEvents, pinSet, pinClear, setLevel, emit, sampleMiso, State.afterDraws, State.misoAt]

/-! ### One XFER -/

/-- The effect of `transfer(d)` (R102): `ret` is the byte received. -/
def xferDone (d : Byte) (s : State) : State :=
  { s.afterDraws 8 with
    mosi := d.getLsbD 0, sck := false, ret := s.misoByte 0,
    xo := Config.freeXo s.fresh, xi := Config.freeXi s.fresh, xb := Config.freeXb s.fresh, fresh := s.fresh + 1,
    trace := s.trace ++ exchangeEvents (d, s.misoByte 0) }

/-- The bits of a byte made of eight draws are the draws, in order (R103). -/
theorem bitsOf_byteOfDraws : ∀ a b c d e f g h : Bool,
    bitsOf (byteOfDraws [a, b, c, d, e, f, g, h]) = [a, b, c, d, e, f, g, h] := by
  decide

theorem exchangeEvents_draws (x : Byte) (a b c d e f g h : Bool) :
    exchangeEvents (x, byteOfDraws [a, b, c, d, e, f, g, h]) =
      cellEvents (x.getLsbD 7) a ++ (cellEvents (x.getLsbD 6) b ++ (cellEvents (x.getLsbD 5) c
        ++ (cellEvents (x.getLsbD 4) d ++ (cellEvents (x.getLsbD 3) e ++ (cellEvents (x.getLsbD 2) f
        ++ (cellEvents (x.getLsbD 1) g ++ cellEvents (x.getLsbD 0) h)))))) := by
  simp only [exchangeEvents, bitsOf_byteOfDraws]
  simp [bitsOf, cellEvents]

theorem runOps_xferCode (d : Byte) (s : State) : runOps (xferCode d) s = xferDone d s := by
  have hcells : ∀ t : State, runOps (([7, 6, 5, 4, 3, 2, 1, 0] : List (BitVec 3)).flatMap bitCode) t
      = cellDone 0 (cellDone 1 (cellDone 2 (cellDone 3 (cellDone 4 (cellDone 5 (cellDone 6 (cellDone 7 t))))))) := by
    intro t
    simp only [List.flatMap_cons, List.flatMap_nil, List.append_nil, runOps_append, runOps_bitCode]
  simp only [xferCode, runOps_append, hcells]
  simp only [runOps, Op.apply, assign]
  simp only [xferDone, State.misoByte, exchangeEvents_draws]
  simp only [cellDone, forgetXfer, State.afterDraws, byteOfDraws, List.foldl, List.append_assoc, List.drop_drop, State.misoAt, List.getElem?_drop, Nat.add_assoc]
  rfl

@[simp] theorem primCount_xferCode (d : Byte) : primCount (xferCode d) = 32 := rfl

@[simp] theorem straight_xferCode (d : Byte) : (xferCode d).all Op.straight = true := rfl

/-! ### A window of three XFERs -/

/-- The effect of a chip-select window that sends `a`, `b` and `c` (R120, R122): `ret` is the third in byte. -/
def windowDone (a b c : Byte) (s : State) : State :=
  { s.afterDraws 24 with
    csN := true, sck := false, mosi := c.getLsbD 0, ret := s.misoByte 16,
    xo := Config.freeXo (s.fresh + 2), xi := Config.freeXi (s.fresh + 2), xb := Config.freeXb (s.fresh + 2),
    fresh := s.fresh + 3,
    trace := s.trace ++ frameEvents [(a, s.misoByte 0), (b, s.misoByte 8), (c, s.misoByte 16)] }

theorem State.afterDraws_misoByte (s : State) (n j : Nat) : (s.afterDraws n).misoByte j = s.misoByte (n + j) := by
  simp only [State.misoByte, State.afterDraws_misoAt, Nat.add_assoc]

theorem runOps_window (a b c : Byte) (s : State) :
    runOps (beginCode ++ xferCode a ++ xferCode b ++ xferCode c ++ endCode) s = windowDone a b c s := by
  have h1 (x : Byte) (t : State) (j : Nat) : (xferDone x t).misoByte j = t.misoByte (8 + j) :=
    t.afterDraws_misoByte 8 j
  have h2 (t : State) (j : Nat) : (pinClear .cs t).misoByte j = t.misoByte j := rfl
  simp only [runOps_append, runOps_xferCode]
  simp only [beginCode, endCode, runOps, Op.apply, carryOut]
  have e : ∀ t : State, pinSet .cs t = { t with csN := true, trace := t.trace ++ [.set .cs] } := fun _ => rfl
  rw [e]
  simp only [windowDone, frameEvents]
  have t1 : (xferDone c (xferDone b (xferDone a (pinClear .cs s)))).trace
      = s.trace ++ [.clear .cs] ++ exchangeEvents (a, s.misoByte 0) ++ exchangeEvents (b, s.misoByte 8)
        ++ exchangeEvents (c, s.misoByte 16) := by
    change (((_ ++ exchangeEvents (a, _)) ++ exchangeEvents (b, _)) ++ exchangeEvents (c, _)) = _
    simp only [h1, h2]
    rfl
  have t2 : (xferDone c (xferDone b (xferDone a (pinClear .cs s)))).ret = s.misoByte 16 := by
    change (xferDone b (xferDone a (pinClear .cs s))).misoByte 0 = _
    simp only [h1, h2]
  rw [t1]
  simp only [List.append_assoc, List.flatMap_cons, List.flatMap_nil, List.append_nil]
  rw [← t2]
  simp only [xferDone, State.afterDraws, List.drop_drop]
  rfl

theorem runOps_wrregCode (c : Config) (a v : Byte) (s : State) :
    runOps (wrregCode c a v) s = windowDone c.opcWrite a v s := runOps_window _ _ _ s

theorem runOps_rdregCode (c : Config) (a : Byte) (s : State) :
    runOps (rdregCode c a) s = windowDone c.opcRead a c.dummy s := runOps_window _ _ _ s

@[simp] theorem primCount_wrregCode (c : Config) (a v : Byte) : primCount (wrregCode c a v) = 98 := rfl

@[simp] theorem primCount_rdregCode (c : Config) (a : Byte) : primCount (rdregCode c a) = 98 := rfl

@[simp] theorem straight_wrregCode (c : Config) (a v : Byte) : (wrregCode c a v).all Op.straight = true := by
  simp only [wrregCode, List.all_append, straight_xferCode]
  rfl

@[simp] theorem straight_rdregCode (c : Config) (a : Byte) : (rdregCode c a).all Op.straight = true := by
  simp only [rdregCode, List.all_append, straight_xferCode]
  rfl

/-! ### Runs of pseudocode -/

/-- Standing before the pseudocode `c` in state `s`, whatever comes after it, the command `w` takes exactly `n` steps over
`c`, running all the while, and then stands after it in state `t`. -/
def Runs (w : Word) (n : Nat) (c : List Op) (s t : State) : Prop :=
  ∀ k, turns n (settle w (c ++ k) s) = settle w k t ∧ ∀ m < n, (turns m (settle w (c ++ k) s)).bsy = true

/-- Runs of two pieces of pseudocode make a run of both. -/
theorem Runs.append {w : Word} {m n : Nat} {a b : List Op} {s t u : State} (h1 : Runs w m a s t) (h2 : Runs w n b t u) :
    Runs w (m + n) (a ++ b) s u := by
  intro k
  rw [List.append_assoc, turns_add, (h1 (b ++ k)).1]
  refine ⟨(h2 k).1, fun i hi => ?_⟩
  by_cases h : i < m
  · exact (h1 (b ++ k)).2 i h
  · obtain ⟨j, rfl⟩ : ∃ j, i = m + j := ⟨i - m, by omega⟩
    rw [turns_add, (h1 (b ++ k)).1]
    exact (h2 k).2 j (by omega)

/-- Straight pseudocode runs, one step a primitive, to its effect. -/
theorem Runs.straight (w : Word) (c : List Op) (s : State) (hc : c.all Op.straight = true) (hf : s.fc = .none) :
    Runs w (primCount c) c s (runOps c s) := by
  intro k
  refine ⟨turns_straight w c k s hc hf, fun m hm => ?_⟩
  induction c generalizing s m with
  | nil => simp [primCount] at hm
  | cons o c ih =>
    have ho : o.straight = true := by simp only [List.all_cons, Bool.and_eq_true] at hc; exact hc.1
    have hc' : c.all Op.straight = true := by simp only [List.all_cons, Bool.and_eq_true] at hc; exact hc.2
    have hf' : (o.apply s).fc = .none := by rw [Op.apply_fc o s ho, hf]
    cases o with
    | let_ a => exact ih (assign a s) hc' hf' m hm
    | pollTest => simp [Op.straight] at ho
    | act p =>
      cases m with
      | zero => rfl
      | succ m =>
        have h1 : blockTurn (settle w (.act p :: c ++ k) s) = settle w (c ++ k) (Op.apply (.act p) s) :=
          turns_straight w [.act p] (c ++ k) s (by simp [ho]) hf
        change (turns m (blockTurn (settle w (.act p :: c ++ k) s))).bsy = true
        rw [h1]
        exact ih _ hc' hf' m (by simp only [primCount] at hm; omega)

/-- A write transaction runs (R122). -/
theorem Runs.wrreg (w : Word) (c : Config) (a v : Byte) (s : State) (hf : s.fc = .none) :
    Runs w 98 (wrregCode c a v) s (windowDone c.opcWrite a v s) := by
  have h := Runs.straight w (wrregCode c a v) s (straight_wrregCode c a v) hf
  rwa [primCount_wrregCode, runOps_wrregCode] at h

/-- A read transaction runs (R120). -/
theorem Runs.rdreg (w : Word) (c : Config) (a : Byte) (s : State) (hf : s.fc = .none) :
    Runs w 98 (rdregCode c a) s (windowDone c.opcRead a c.dummy s) := by
  have h := Runs.straight w (rdregCode c a) s (straight_rdregCode c a) hf
  rwa [primCount_rdregCode, runOps_rdregCode] at h

/-- Assignments take no step (R25). -/
theorem Runs.let_ (w : Word) (a : Assign) (s : State) : Runs w 0 [.let_ a] s (assign a s) :=
  fun _ => ⟨rfl, fun m hm => absurd hm (by omega)⟩

/-- A delay runs in one step (R150). -/
theorem Runs.delay (w : Word) (d : Dly) (s : State) (hf : s.fc = .none) :
    Runs w 1 (delayCode d) s (emit (.delay d) s) :=
  Runs.straight w (delayCode d) s rfl hf

end Sys2Proof.Machine
end

