-- ==== Sys2Proof/Laws/Lcd.lean ====
section
/-! SUPPORT. What the LCD engine's pseudocode does to a state: transactions one after the other, the busy read, the
busy-poll, the nibble pulse and the byte write, each said once by the frames of Views.lean. -/

namespace Sys2Proof.Machine

/-! ### What a run of whole transactions leaves -/

/-- Between whole transactions, a run from `s` to `t` has drawn `d` samples, appended `evs`, left `m` on data-out and the
other two pins idle, and changed nothing else that is visible; the sequencer is left out, since settling overwrites it. -/
def After (s t : State) (d : Nat) (m : Bool) (evs : List Event) : Prop :=
  { t.visible with seq := s.seq } = { s.visible with csN := true, sck := false, mosi := m, trace := s.trace ++ evs }
    ∧ ∀ j, t.misoAt j = s.misoAt (d + j)

theorem After.trans {s t u : State} {d d' : Nat} {m m' : Bool} {e e' : List Event} (h1 : After s t d m e)
    (h2 : After t u d' m' e') : After s u (d + d') m' (e ++ e') := by
  obtain ⟨a1, b1⟩ := h1
  obtain ⟨a2, b2⟩ := h2
  simp only [State.visible, Visible.mk.injEq] at a1 a2
  refine ⟨?_, fun j => by rw [b2, b1, Nat.add_assoc]⟩
  simp only [State.visible, Visible.mk.injEq]
  simp_all [List.append_assoc]

theorem After.cfg {s t : State} {d : Nat} {m : Bool} {e : List Event} (h : After s t d m e) : t.cfg = s.cfg := by
  have := h.1
  simp only [State.visible, Visible.mk.injEq] at this
  exact this.2.2.2.2.2.2.2.2.2.2.2.1

theorem After.fc {s t : State} {d : Nat} {m : Bool} {e : List Event} (h : After s t d m e) : t.fc = s.fc := by
  have := h.1
  simp only [State.visible, Visible.mk.injEq] at this
  exact this.2.2.2.2.2.2.2.2.1

/-- Fields outside the visible part may change freely. -/
theorem After.congr {s t t' : State} {d : Nat} {m : Bool} {e : List Event} (h : After s t d m e)
    (hv : { t'.visible with seq := s.seq } = { t.visible with seq := s.seq }) (hm : ∀ j, t'.misoAt j = t.misoAt j) :
    After s t' d m e :=
  ⟨hv.trans h.1, fun j => (hm j).trans (h.2 j)⟩

/-- `t` has the configuration of `s`, and its draws are those of `s` from the `d`th on. -/
def Shift (s t : State) (d : Nat) : Prop := t.cfg = s.cfg ∧ ∀ j, t.misoAt j = s.misoAt (d + j)

theorem After.shift {s t : State} {d : Nat} {m : Bool} {e : List Event} (h : After s t d m e) : Shift s t d :=
  ⟨h.cfg, h.2⟩

theorem Shift.misoByte {s t : State} {d : Nat} (h : Shift s t d) (j : Nat) :
    t.misoByte j = s.misoByte (d + j) := by
  simp only [State.misoByte, h.2, Nat.add_assoc]

theorem Shift.writeFrame {s t : State} {d : Nat} (h : Shift s t d) (j : Nat) (a v : Byte) :
    t.writeFrame j a v = s.writeFrame (d + j) a v := by
  simp only [State.writeFrame, h.misoByte, h.1, Nat.add_assoc]

theorem Shift.readFrame {s t : State} {d : Nat} (h : Shift s t d) (j : Nat) (a : Byte) :
    t.readFrame j a = s.readFrame (d + j) a := by
  simp only [State.readFrame, h.misoByte, h.1, Nat.add_assoc]

theorem Shift.readValue {s t : State} {d : Nat} (h : Shift s t d) (j : Nat) :
    t.readValue j = s.readValue (d + j) := by
  simp only [State.readValue, h.misoByte, Nat.add_assoc]

theorem Shift.busyReadFrames {s t : State} {d : Nat} (h : Shift s t d) (j : Nat) :
    t.busyReadFrames j = s.busyReadFrames (d + j) := by
  simp only [State.busyReadFrames, h.writeFrame, h.readFrame, h.1, Nat.add_assoc]

theorem Shift.busyStatus {s t : State} {d : Nat} (h : Shift s t d) (j : Nat) :
    t.busyStatus j = s.busyStatus (d + j) := by
  simp only [State.busyStatus, h.readValue, Nat.add_assoc]

theorem Shift.pollFrames {s t : State} {d : Nat} (h : Shift s t d) (j k : Nat) :
    t.pollFrames j k = s.pollFrames (d + j) k := by
  induction k generalizing j with
  | zero => rfl
  | succ k ih => simp only [State.pollFrames, h.busyReadFrames, ih, h.1, Nat.add_assoc]

theorem Shift.busyFor {s t : State} {d : Nat} (h : Shift s t d) (j k : Nat) :
    t.busyFor j k = s.busyFor (d + j) k := by
  induction k generalizing j with
  | zero => rfl
  | succ k ih => simp only [State.busyFor, h.busyStatus, ih, h.1, Nat.add_assoc]

theorem Shift.pollEnds {s t : State} {d : Nat} (h : Shift s t d) (j k : Nat) :
    t.pollEnds j k = s.pollEnds (d + j) k := by
  simp only [State.pollEnds, h.busyFor, h.busyStatus, h.1, Nat.add_assoc]

theorem Shift.pulseFrames {s t : State} {d : Nat} (h : Shift s t d) (j : Nat) (rs : Bool)
    (n : Nibble) : t.pulseFrames j rs n = s.pulseFrames (d + j) rs n := by
  simp only [State.pulseFrames, h.writeFrame, h.1, Nat.add_assoc]

/-- A window of three XFERs. -/
theorem windowDone_after (a b c : Byte) (s : State) :
    After s (windowDone a b c s) 24 (c.getLsbD 0)
      (frameEvents [(a, s.misoByte 0), (b, s.misoByte 8), (c, s.misoByte 16)]) :=
  ⟨rfl, fun j => s.afterDraws_misoAt 24 j⟩

/-! ### Transactions -/

/-- A run over whole transactions: it exists, and leaves what `After` says, and the temporaries that `keeps` names. -/
def RunsAfter (w : Word) (n : Nat) (c : List Op) (s : State) (d : Nat) (m : Bool) (fs : List Frame)
    (keeps : State → Prop) : Prop :=
  ∃ t, Runs w n c s t ∧ After s t d m (framesEvents fs) ∧ keeps t

theorem RunsAfter.append {w : Word} {n n' d d' : Nat} {c c' : List Op} {s : State} {m m' : Bool} {fs fs' : List Frame}
    {p q : State → Prop} (h1 : RunsAfter w n c s d m fs p)
    (h2 : ∀ t, After s t d m (framesEvents fs) → p t → RunsAfter w n' c' t d' m' fs' q) :
    RunsAfter w (n + n') (c ++ c') s (d + d') m' (fs ++ fs') q := by
  obtain ⟨t, r1, a1, p1⟩ := h1
  obtain ⟨u, r2, a2, q2⟩ := h2 t a1 p1
  refine ⟨u, r1.append r2, ?_, q2⟩
  rw [framesEvents, List.flatMap_append]
  exact a1.trans a2

/-- A write of an expander register; no temporary of the busy-poll changes. -/
theorem RunsAfter.wrreg (w : Word) (a v : Byte) (s : State) (hf : s.fc = .none) :
    RunsAfter w 98 (wrregCode s.cfg a v) s 24 (v.getLsbD 0) [s.writeFrame 0 a v]
      (fun t => t.hi = s.hi ∧ t.lo = s.lo ∧ t.st = s.st ∧ t.nb = s.nb) :=
  ⟨_, Runs.wrreg w s.cfg a v s hf, by
    simpa [framesEvents, State.writeFrame] using windowDone_after s.cfg.opcWrite a v s, rfl, rfl, rfl, rfl⟩

/-- A read of an expander register gives its value to `ret`. -/
theorem RunsAfter.rdreg (w : Word) (a : Byte) (s : State) (hf : s.fc = .none) :
    RunsAfter w 98 (rdregCode s.cfg a) s 24 (s.cfg.dummy.getLsbD 0) [s.readFrame 0 a]
      (fun t => t.hi = s.hi ∧ t.lo = s.lo ∧ t.st = s.st ∧ t.nb = s.nb ∧ t.ret = s.readValue 0) :=
  ⟨_, Runs.rdreg w s.cfg a s hf, by
    simpa [framesEvents, State.readFrame] using windowDone_after s.cfg.opcRead a s.cfg.dummy s,
    rfl, rfl, rfl, rfl, by simp [windowDone, State.readValue]⟩

/-- An assignment that changes only temporaries. -/
theorem RunsAfter.assign {w : Word} {n d : Nat} {c : List Op} {s : State} {m : Bool} {fs : List Frame}
    {p q : State → Prop} (a : Assign) (h : RunsAfter w n c s d m fs p)
    (hv : ∀ t, (Machine.assign a t).visible = t.visible ∧ (∀ j, (Machine.assign a t).misoAt j = t.misoAt j))
    (hq : ∀ t, After s t d m (framesEvents fs) → p t → q (Machine.assign a t)) :
    RunsAfter w n (c ++ [.let_ a]) s d m fs q := by
  obtain ⟨t, r, a1, p1⟩ := h
  refine ⟨Machine.assign a t, r.append (Runs.let_ w a t), a1.congr ?_ (hv t).2, hq t a1 p1⟩
  rw [(hv t).1]

theorem RunsAfter.mono {w : Word} {n d : Nat} {c : List Op} {s : State} {m : Bool} {fs : List Frame}
    {p q : State → Prop} (h : RunsAfter w n c s d m fs p) (hq : ∀ t, After s t d m (framesEvents fs) → p t → q t) :
    RunsAfter w n c s d m fs q := by
  obtain ⟨t, r, a, p⟩ := h
  exact ⟨t, r, a, hq t a p⟩

/-! ### The busy read -/

/-- Enable low, enable high, and a read of port B: the half of a busy read that gives one nibble (R140). -/
theorem RunsAfter.busyHalf (w : Word) (s : State) (hf : s.fc = .none) :
    RunsAfter w 294 (portBWrite s.cfg (readIdle s.cfg) ++ portBWrite s.cfg (readStrobe s.cfg) ++ portBRead s.cfg) s 72
      (s.cfg.dummy.getLsbD 0)
      [s.writeFrame 0 s.cfg.regGpiob (readIdle s.cfg), s.writeFrame 24 s.cfg.regGpiob (readStrobe s.cfg),
        s.readFrame 48 s.cfg.regGpiob]
      (fun t => t.hi = s.hi ∧ t.lo = s.lo ∧ t.st = s.st ∧ t.nb = s.nb ∧ t.ret = s.readValue 48) := by
  refine RunsAfter.append (m := (readStrobe s.cfg).getLsbD 0) (d := 48) (d' := 24) (n := 196) (n' := 98) (fs := [_, _])
    (RunsAfter.append (d := 24) (d' := 24) (n := 98) (n' := 98) (fs := [_])
      (RunsAfter.wrreg w s.cfg.regGpiob (readIdle s.cfg) s hf)
      (q := fun t => t.hi = s.hi ∧ t.lo = s.lo ∧ t.st = s.st ∧ t.nb = s.nb)
      fun t a p => ?_) fun t a p => ?_
  · have h := RunsAfter.wrreg w s.cfg.regGpiob (readStrobe s.cfg) t (a.fc.trans hf)
    rw [a.cfg, a.shift.writeFrame] at h
    exact h.mono fun u _ q => by simp_all
  · have h := RunsAfter.rdreg w s.cfg.regGpiob t (a.fc.trans hf)
    rw [a.cfg, a.shift.readFrame, a.shift.readValue] at h
    exact h.mono fun u _ q => by simp_all

/-- The two halves of a busy read, with its two nibbles latched. -/
theorem RunsAfter.busyHalves (w : Word) (s : State) (hf : s.fc = .none) :
    RunsAfter w 588
      (portBWrite s.cfg (readIdle s.cfg) ++ portBWrite s.cfg (readStrobe s.cfg) ++ portBRead s.cfg ++ [.let_ .latchHi]
        ++ (portBWrite s.cfg (readIdle s.cfg) ++ portBWrite s.cfg (readStrobe s.cfg) ++ portBRead s.cfg)
        ++ [.let_ .latchLo]) s 144 (s.cfg.dummy.getLsbD 0)
      [s.writeFrame 0 s.cfg.regGpiob (readIdle s.cfg), s.writeFrame 24 s.cfg.regGpiob (readStrobe s.cfg),
        s.readFrame 48 s.cfg.regGpiob, s.writeFrame 72 s.cfg.regGpiob (readIdle s.cfg),
        s.writeFrame 96 s.cfg.regGpiob (readStrobe s.cfg), s.readFrame 120 s.cfg.regGpiob]
      (fun t => t.nb = s.nb ∧ t.hi = dataNibble (s.readValue 48) ∧ t.lo = dataNibble (s.readValue 120)) := by
  refine RunsAfter.assign .latchLo (p := fun t => t.nb = s.nb ∧ t.hi = dataNibble (s.readValue 48)
    ∧ t.ret = s.readValue 120) ?_ (fun _ => ⟨rfl, fun _ => rfl⟩) fun t _ p => ⟨p.1, p.2.1, by simp [Machine.assign, p.2.2]⟩
  refine RunsAfter.append (d := 72) (d' := 72) (n := 294) (n' := 294) (fs := [_, _, _])
    (RunsAfter.assign .latchHi (q := fun t => t.nb = s.nb ∧ t.hi = dataNibble (s.readValue 48))
      (RunsAfter.busyHalf w s hf) (fun _ => ⟨rfl, fun _ => rfl⟩)
      fun t _ p => ⟨p.2.2.2.1, by simp [Machine.assign, p.2.2.2.2]⟩)
    fun t a p => ?_
  have h := RunsAfter.busyHalf w t (a.fc.trans hf)
  rw [a.cfg, a.shift.writeFrame, a.shift.writeFrame, a.shift.readFrame, a.shift.readValue] at h
  exact h.mono fun u _ q => by simp_all

/-- The busy read (R140). -/
theorem RunsAfter.busyRead (w : Word) (s : State) (hf : s.fc = .none) :
    RunsAfter w (busyReadEvents s.cfg) (busyReadCode s.cfg) s (busyReadDraws s.cfg) (mosiAfterBusyRead s.cfg)
      (s.busyReadFrames 0) (fun t => t.nb = s.nb ∧ t.st = s.busyStatus 0) := by
  have h := RunsAfter.busyHalves w s hf
  unfold busyReadCode
  cases hp : s.cfg.pollTail with
  | none =>
    simp only [busyReadEvents, busyReadDraws, mosiAfterBusyRead, State.busyReadFrames, hp, List.append_nil]
    refine RunsAfter.assign .assemble
      (p := fun t => t.nb = s.nb ∧ t.hi = dataNibble (s.readValue 48) ∧ t.lo = dataNibble (s.readValue 120)) ?_ (fun _ => ⟨rfl, fun _ => rfl⟩)
      (fun t _ p => ⟨p.1, by simp [Machine.assign, State.busyStatus, p.2.1, p.2.2]⟩)
    simpa [List.append_assoc] using h
  | deassert =>
    simp only [busyReadEvents, busyReadDraws, mosiAfterBusyRead, State.busyReadFrames, hp]
    refine RunsAfter.assign .assemble
      (p := fun t => t.nb = s.nb ∧ t.hi = dataNibble (s.readValue 48) ∧ t.lo = dataNibble (s.readValue 120)) ?_
      (fun _ => ⟨rfl, fun _ => rfl⟩) (fun t _ p => ⟨p.1, by simp [Machine.assign, State.busyStatus, p.2.1, p.2.2]⟩)
    refine RunsAfter.append (d := 144) (d' := 24) (n := 588) (n' := 98) (by simpa [List.append_assoc] using h) fun t a p => ?_
    have h2 := RunsAfter.wrreg w s.cfg.regGpiob (readIdle s.cfg) t (a.fc.trans hf)
    rw [a.cfg, a.shift.writeFrame] at h2
    exact h2.mono fun u _ q => by simp_all

/-! ### The busy-poll -/

/-- The loop test goes round while the LCD is busy and the limit is not reached (R142). -/
theorem settle_pollTest_again (w : Word) (k : List Op) (s : State) (hb : busyFlag s.st = true)
    (hl : limitReached s.cfg (s.nb + 1) = false) :
    settle w (.pollTest :: k) s = settle w (busyReadCode s.cfg ++ .pollTest :: k) { s with nb := s.nb + 1 } := by
  simp only [settle, hb, hl]
  rfl

/-- The loop test ends the poll with the first status that is not busy (R142). -/
theorem settle_pollTest_done (w : Word) (k : List Op) (s : State) (hb : busyFlag s.st = false) :
    settle w (.pollTest :: k) s = settle w k (forgetPoll { s with nb := s.nb + 1, ret := s.st }) := by
  simp [settle, hb]

/-- The loop test raises the timeout at the limit (R142). -/
theorem settle_pollTest_timeout (w : Word) (k : List Op) (s : State) (hb : busyFlag s.st = true)
    (hl : limitReached s.cfg (s.nb + 1) = true) :
    settle w (.pollTest :: k) s = { s with nb := s.nb + 1, seq := .run w (.act (.raise .busyTimeout) :: k) } := by
  simp [settle, hb, hl]

/-- `k` rounds of the loop that all find the LCD busy, within the limit: the run stands before the next busy read. -/
theorem pollRounds (w : Word) (k : Nat) (s : State) (hf : s.fc = .none) (hb : s.busyFor 0 k = true)
    (hl : ∀ i, 1 ≤ i → i ≤ k → limitReached s.cfg (s.nb + i) = false) :
    ∃ t, (∀ rest, turns (k * busyReadEvents s.cfg) (settle w (busyReadCode s.cfg ++ .pollTest :: rest) s)
            = settle w (busyReadCode s.cfg ++ .pollTest :: rest) t
          ∧ ∀ m < k * busyReadEvents s.cfg, (turns m (settle w (busyReadCode s.cfg ++ .pollTest :: rest) s)).bsy = true)
      ∧ t.nb = s.nb + k
      ∧ (k = 0 ∧ t = s ∨ After s t (k * busyReadDraws s.cfg) (mosiAfterBusyRead s.cfg) (framesEvents (s.pollFrames 0 k))) := by
  induction k generalizing s with
  | zero => exact ⟨s, fun rest => ⟨by simp [turns], fun m hm => by simp at hm⟩, rfl, .inl ⟨rfl, rfl⟩⟩
  | succ k ih =>
    simp only [State.busyFor, Bool.and_eq_true] at hb
    obtain ⟨t, r, a, hn, hst⟩ := RunsAfter.busyRead w s hf
    have a' : After s { t with nb := t.nb + 1 } (busyReadDraws s.cfg) (mosiAfterBusyRead s.cfg)
        (framesEvents (s.busyReadFrames 0)) := a.congr rfl fun _ => rfl
    have hcfg : t.cfg = s.cfg := a.cfg
    obtain ⟨u, ru, hnu, au⟩ := ih { t with nb := t.nb + 1 } (a'.fc.trans hf)
      (by rw [a'.shift.busyFor]; simpa using hb.2)
      (fun i h1 h2 => by
        change limitReached t.cfg (t.nb + 1 + i) = false
        rw [hcfg, hn, Nat.add_assoc]
        exact hl (1 + i) (by omega) (by omega))
    refine ⟨u, fun rest => ?_, by rw [hnu]; simp only; omega, .inr ?_⟩
    · have hagain := settle_pollTest_again w rest t (by rw [hst]; exact hb.1)
        (by rw [hcfg, hn]; exact hl 1 (by omega) (by omega))
      rw [hcfg] at hagain
      have hru := ru rest
      simp only [hcfg] at hru
      obtain ⟨r1, r2⟩ := r (.pollTest :: rest)
      rw [Nat.succ_mul, Nat.add_comm, turns_add, r1, hagain]
      refine ⟨hru.1, fun m hm => ?_⟩
      by_cases hlt : m < busyReadEvents s.cfg
      · exact r2 m hlt
      · obtain ⟨j, rfl⟩ : ∃ j, m = busyReadEvents s.cfg + j := ⟨m - busyReadEvents s.cfg, by omega⟩
        rw [turns_add, r1, hagain]
        exact hru.2 j (by omega)
    · rcases au with ⟨h0, rfl⟩ | au
      · subst h0
        simpa [State.pollFrames] using a'
      · have h := a'.trans au
        rw [a'.shift.pollFrames] at h
        rw [Nat.succ_mul, Nat.add_comm (k * _), State.pollFrames, framesEvents, List.flatMap_append]
        simp only [Nat.zero_add, Nat.add_zero, hcfg] at h ⊢
        exact h

/-- The frames of `k + 1` busy reads end with those of the last. -/
theorem State.pollFrames_succ (s : State) (j k : Nat) :
    s.pollFrames j (k + 1) = s.pollFrames j k ++ s.busyReadFrames (j + k * busyReadDraws s.cfg) := by
  induction k generalizing j with
  | zero => simp [State.pollFrames]
  | succ k ih =>
    rw [State.pollFrames, ih, State.pollFrames, Nat.succ_mul, List.append_assoc,
      show j + busyReadDraws s.cfg + k * busyReadDraws s.cfg = j + (k * busyReadDraws s.cfg + busyReadDraws s.cfg) by omega]

/-- The busy-poll ends with its `k + 1`st busy read, the first to find the LCD not busy within the limit; its status is in
`ret` (R142, R143). -/
theorem RunsAfter.busywait (w : Word) (k : Nat) (s : State) (hf : s.fc = .none) (he : s.pollEnds 0 k = true) :
    RunsAfter w ((k + 1) * busyReadEvents s.cfg) (busywaitCode s.cfg) s ((k + 1) * busyReadDraws s.cfg)
      (mosiAfterBusyRead s.cfg) (s.pollFrames 0 (k + 1)) (fun t => t.ret = s.busyStatus (k * busyReadDraws s.cfg)) := by
  simp only [State.pollEnds, Bool.and_eq_true, Bool.not_eq_true', Nat.zero_add] at he
  obtain ⟨⟨hb, hd⟩, hl⟩ := he
  have s0 : Shift s { s with nb := 0 } 0 := ⟨rfl, fun j => by rw [Nat.zero_add]; rfl⟩
  obtain ⟨t, rt, hnt, at_⟩ := pollRounds w k { s with nb := 0 } hf (by rw [s0.busyFor]; simpa using hb)
    (fun i h1 h2 => by
      change limitReached s.cfg (0 + i) = false
      unfold limitReached at hl ⊢
      cases hL : s.cfg.busyLimit with
      | none => rfl
      | some l => simp only [hL, decide_eq_false_iff_not] at hl ⊢; omega)
  have hfc : t.fc = .none := by
    rcases at_ with ⟨_, rfl⟩ | a
    · exact hf
    · exact a.fc.trans hf
  have hcfg : t.cfg = s.cfg := by
    rcases at_ with ⟨_, rfl⟩ | a
    · rfl
    · exact a.cfg
  have ht : Shift s t (k * busyReadDraws s.cfg) := by
    rcases at_ with ⟨rfl, rfl⟩ | a
    · simpa using s0
    · exact a.shift
  have hst : t.busyStatus 0 = s.busyStatus (k * busyReadDraws s.cfg) := by rw [ht.busyStatus, Nat.add_zero]
  obtain ⟨u, ru, au, _, hu⟩ := RunsAfter.busyRead w t hfc
  refine ⟨forgetPoll { u with nb := u.nb + 1, ret := u.st }, fun rest => ?_, ?_, ?_⟩
  · have hs : settle w (busywaitCode s.cfg ++ rest) s
        = settle w (busyReadCode s.cfg ++ .pollTest :: rest) { s with nb := 0 } := by
      simp only [busywaitCode, List.append_assoc]
      rfl
    have hdone := settle_pollTest_done w rest u (by rw [hu, hst]; exact hd)
    have hrt := rt rest
    obtain ⟨r1, r2⟩ := ru (.pollTest :: rest)
    rw [hcfg] at r1 r2
    change turns (k * busyReadEvents s.cfg) _ = settle w (busyReadCode s.cfg ++ .pollTest :: rest) t ∧ _ at hrt
    rw [hs, Nat.succ_mul, turns_add, hrt.1, r1, hdone]
    refine ⟨rfl, fun m hm => ?_⟩
    by_cases hlt : m < k * busyReadEvents s.cfg
    · exact hrt.2 m hlt
    · obtain ⟨j, rfl⟩ : ∃ j, m = k * busyReadEvents s.cfg + j := ⟨m - k * busyReadEvents s.cfg, by omega⟩
      rw [turns_add, hrt.1]
      exact r2 j (by omega)
  · have au' : After t (forgetPoll { u with nb := u.nb + 1, ret := u.st }) (busyReadDraws s.cfg) (mosiAfterBusyRead s.cfg)
        (framesEvents (s.busyReadFrames (k * busyReadDraws s.cfg))) := by
      have h := au.congr (t' := forgetPoll { u with nb := u.nb + 1, ret := u.st }) rfl fun _ => rfl
      rwa [hcfg, ht.busyReadFrames, Nat.add_zero] at h
    rw [State.pollFrames_succ, Nat.zero_add, Nat.succ_mul, framesEvents, List.flatMap_append]
    rcases at_ with ⟨rfl, rfl⟩ | a
    · simp only [Nat.zero_mul, Nat.zero_add, State.pollFrames, List.flatMap_nil, List.nil_append] at au' ⊢
      exact au'
    · rw [s0.pollFrames, Nat.add_zero] at a
      exact After.trans (show After s t _ _ _ from a) au'
  · exact hu.trans hst

/-! ### Pulses and byte writes -/

/-- The nibble pulse (R144). -/
theorem RunsAfter.pulse (w : Word) (rs : Bool) (n : Nibble) (s : State) (hf : s.fc = .none) :
    RunsAfter w 196 (pulse4Code s.cfg rs n) s 48 ((pulseLatch s.cfg rs n).getLsbD 0) (s.pulseFrames 0 rs n)
      (fun _ => True) := by
  refine RunsAfter.append (d := 24) (d' := 24) (n := 98) (n' := 98) (fs := [_])
    (RunsAfter.wrreg w s.cfg.regGpiob (pulseEnable s.cfg rs n) s hf) fun t a _ => ?_
  have h := RunsAfter.wrreg w s.cfg.regGpiob (pulseLatch s.cfg rs n) t (a.fc.trans hf)
  rw [a.cfg, a.shift.writeFrame] at h
  exact h.mono fun _ _ _ => trivial

/-- The byte write's five steps (R147). -/
theorem RunsAfter.lcdByte (w : Word) (rs : Bool) (v : Byte) (p : BytePlan) (s : State) (hf : s.fc = .none)
    (he : s.byteEnds 0 p = true) :
    RunsAfter w (p.events s.cfg) (lcdByteCode s.cfg rs v) s (p.endAt s.cfg 0) (mosiAfterBusyRead s.cfg)
      (s.byteFrames 0 rs v p) (fun _ => True) := by
  simp only [State.byteEnds, Bool.and_eq_true] at he
  obtain ⟨⟨e1, e2⟩, e3⟩ := he
  have hn : p.events s.cfg = (p.first + 1) * busyReadEvents s.cfg + 196 + (p.second + 1) * busyReadEvents s.cfg + 196
      + (p.third + 1) * busyReadEvents s.cfg := by
    simp only [BytePlan.events, BytePlan.reads]; ring
  have hd : p.endAt s.cfg 0 = (p.first + 1) * busyReadDraws s.cfg + 48 + (p.second + 1) * busyReadDraws s.cfg + 48
      + (p.third + 1) * busyReadDraws s.cfg := by
    simp only [BytePlan.endAt, BytePlan.thirdAt, BytePlan.secondAt]; ring
  rw [hn, hd]
  refine RunsAfter.append (m := (pulseLatch s.cfg rs (loNibble v)).getLsbD 0)
    (RunsAfter.append (m := mosiAfterBusyRead s.cfg)
      (RunsAfter.append (m := (pulseLatch s.cfg rs (hiNibble v)).getLsbD 0)
        (RunsAfter.append (RunsAfter.busywait w p.first s hf e1)
          (q := fun _ => True) fun t a _ => ?_) (q := fun _ => True) fun t a _ => ?_) (q := fun _ => True) fun t a _ => ?_)
    fun t a _ => ?_
  · have h := RunsAfter.pulse w rs (hiNibble v) t (a.fc.trans hf)
    rw [a.cfg, a.shift.pulseFrames] at h
    simpa using h
  · have h := RunsAfter.busywait w p.second t (a.fc.trans hf) (by
      rw [a.shift.pollEnds]; simpa [BytePlan.secondAt] using e2)
    rw [a.cfg, a.shift.pollFrames] at h
    have h2 := h.mono (q := fun _ => True) fun _ _ _ => trivial
    simpa [BytePlan.secondAt] using h2
  · have h := RunsAfter.pulse w rs (loNibble v) t (a.fc.trans hf)
    rw [a.cfg, a.shift.pulseFrames] at h
    simpa [BytePlan.secondAt] using h
  · have h := RunsAfter.busywait w p.third t (a.fc.trans hf) (by
      rw [a.shift.pollEnds]; simpa [BytePlan.secondAt, BytePlan.thirdAt] using e3)
    rw [a.cfg, a.shift.pollFrames] at h
    have h2 := h.mono (q := fun _ => True) fun _ _ _ => trivial
    simpa [BytePlan.secondAt, BytePlan.thirdAt] using h2

end Sys2Proof.Machine
end

