-- ==== Sys2Proof/Laws/PerInstr.lean ====
section
/-! SUPPORT. What holds of every command's word, one lemma a constructor: the word has the row's `OP`, the reserved field
`Z` is 0, the must-be-zero fields are 0 and the operand fields hold the operands (30_encoding.md rules R80 to R82). -/

namespace Sys2Proof.Laws.EncodedFields

/-- The fields a row gives its word: `OP`, `R`, `A` and `D` (R82). -/
def fieldsOf : Instr → BitVec 4 × Bool × Byte × Byte
  | .beginCs => (0x1, false, 0, 0)
  | .endCs => (0x2, false, 0, 0)
  | .xfer d => (0x3, false, 0, d)
  | .rdreg a => (0x4, false, a, 0)
  | .wrreg a v => (0x5, false, a, v)
  | .expinit => (0x6, false, 0, 0)
  | .getbtn => (0x7, false, 0, 0)
  | .busyrd => (0x8, false, 0, 0)
  | .busywait => (0x9, false, 0, 0)
  | .pulse4 rs n => (0xA, rs, 0, n.setWidth 8)
  | .wrcmd c => (0xB, false, 0, c)
  | .wrdata d => (0xC, false, 0, d)
  | .lcdinit => (0xD, false, 0, 0)
  | .delay s => (0xE, false, s.setWidth 8, 0)

/-- The word of `i` has the fields of its row, and `Z` is 0. -/
def Statement (i : Instr) : Prop :=
  (opOf (encode i), rOf (encode i), aOf (encode i), dOf (encode i)) = fieldsOf i ∧ zOf (encode i) = 0

/-- The fields of a word packed by `c32`. -/
theorem of_c32 {i : Instr} {op : BitVec 4} {r : Bool} {a d : Byte} (h : encode i = c32 op r a d)
    (hf : fieldsOf i = (op, r, a, d)) : Statement i := by
  simp only [Statement, h, hf, c32_eq_ofFields, opOf_ofFields, zOf_ofFields, rOf_ofFields, aOf_ofFields, dOf_ofFields,
    and_self]

theorem beginCs : Statement .beginCs := of_c32 rfl rfl

theorem endCs : Statement .endCs := of_c32 rfl rfl

theorem xfer (d : Byte) : Statement (.xfer d) := of_c32 rfl rfl

theorem rdreg (a : Byte) : Statement (.rdreg a) := of_c32 rfl rfl

theorem wrreg (a v : Byte) : Statement (.wrreg a v) := of_c32 rfl rfl

theorem expinit : Statement .expinit := of_c32 rfl rfl

theorem getbtn : Statement .getbtn := of_c32 rfl rfl

theorem busyrd : Statement .busyrd := of_c32 rfl rfl

theorem busywait : Statement .busywait := of_c32 rfl rfl

theorem pulse4 (rs : Bool) (n : Nibble) : Statement (.pulse4 rs n) := of_c32 rfl rfl

theorem wrcmd (c : Byte) : Statement (.wrcmd c) := of_c32 rfl rfl

theorem wrdata (d : Byte) : Statement (.wrdata d) := of_c32 rfl rfl

theorem lcdinit : Statement .lcdinit := of_c32 rfl rfl

theorem delay (s : BitVec 2) : Statement (.delay s) := of_c32 rfl rfl

end Sys2Proof.Laws.EncodedFields
end

