-- ==== Sys2Proof/Laws/Step.lean ====
section
/-! SUPPORT. Everything that `exec` and `step` can do, said once: `exec` accepts the command's word with the command's checks
and pseudocode, and a step is a turn of the block, a reset, the acceptance of a word, or an access that leaves the block
alone. -/

namespace Sys2Proof.Machine

/-- The checks of a command at decode (R190). -/
def checkOf (i : Instr) (s : State) : Option FaultCode :=
  match i with
  | .beginCs => checkNoWindow s
  | .endCs => checkEndWindow s
  | .xfer _ => checkXferWindow s
  | .rdreg _ => checkNoWindow s
  | .wrreg _ _ => checkNoWindow s
  | .expinit => firstFault [checkExpFirst s, checkNoWindow s]
  | .getbtn => checkNoWindow s
  | .busyrd => checkLcd s
  | .busywait => checkLcd s
  | .pulse4 _ _ => checkLcd s
  | .wrcmd _ => checkLcd s
  | .wrdata _ => checkLcd s
  | .lcdinit => firstFault [checkLcdFirst s, checkLcd s]
  | .delay sel =>
    match delayOf sel with
    | some _ => none
    | none => some .illegalCmd

/-- The pseudocode of a command, with the write of `RESULT` at its end where it has one (R31). -/
def codeOf (i : Instr) (c : Config) : List Op :=
  match i with
  | .beginCs => beginCode
  | .endCs => endCode
  | .xfer d => xferCode d ++ [.let_ .result]
  | .rdreg a => rdregCode c a ++ [.let_ .result]
  | .wrreg a v => wrregCode c a v
  | .expinit => expinitCode c
  | .getbtn => getbtnCode c ++ [.let_ .result]
  | .busyrd => busyrdCode c ++ [.let_ .result]
  | .busywait => busywaitCode c ++ [.let_ .result]
  | .pulse4 rs n => pulse4Code c rs n
  | .wrcmd v => wrcmdCode c v
  | .wrdata v => wrdataCode c v
  | .lcdinit => lcdinitCode c
  | .delay sel =>
    match delayOf sel with
    | some d => delayCode d
    | none => []

/-- A command's meaning is the acceptance of its word (R41). -/
theorem exec_eq (i : Instr) (s : State) :
    exec i s = .next (accept (encode i) (checkOf i s) (codeOf i s.cfg) s) := by
  cases i with
  | delay sel =>
    change execDelay sel s = _
    simp only [execDelay, checkOf, codeOf]
    cases delayOf sel <;> rfl
  | _ => rfl

/-- What a write of `CMD` does: it accepts the word, with the checks and pseudocode of its command, or as illegal. -/
theorem writeCmd_eq (w : Word) (s : State) :
    (∃ i, decode w = .ok i ∧ writeCmd w s = .next (accept (encode i) (checkOf i s) (codeOf i s.cfg) s))
      ∨ (∃ e, decode w = .error e) ∧ writeCmd w s = .next (accept w (some .illegalCmd) [] s) := by
  simp only [writeCmd]
  cases h : decode w with
  | ok i => exact .inl ⟨i, rfl, exec_eq i s⟩
  | error e => exact .inr ⟨⟨e, rfl⟩, rfl⟩

/-- Everything a step that answers a next state can be, `s'` being the state with the host's turn taken off its list. -/
theorem step_cases {s t : State} (h : step s = .next t) :
    s.cfg.wf = true ∧
      (s.host = [] ∧ t = blockTurn s
        ∨ ∃ op rest, s.host = op :: rest ∧
            (op = .pause ∧ t = blockTurn { s with host := rest }
              ∨ op = .reset ∧ t = doReset { s with host := rest }
              ∨ (∃ w, op = .write 0x0 32 w ∧ writeCmd w { s with host := rest } = .next t)
              ∨ op ≠ .reset ∧ ∃ reads, t = { s with host := rest, reads := reads })) := by
  simp only [step, cycle] at h
  split at h
  · rename_i hw
    refine ⟨hw, ?_⟩
    split at h
    · rename_i hh
      exact .inl ⟨hh, by simpa using h.symm⟩
    · rename_i op rest hh
      refine .inr ⟨op, rest, hh, ?_⟩
      cases op with
      | pause => exact .inl ⟨rfl, by simpa [hostTurn] using h.symm⟩
      | reset => exact .inr (.inl ⟨rfl, by simpa [hostTurn] using h.symm⟩)
      | write offset width v =>
        simp only [hostTurn, hostWrite] at h
        by_cases hwd : width = 32
        · by_cases ho : offset = cmdOffset
          · subst hwd ho
            exact .inr (.inr (.inl ⟨v, rfl, by simpa using h⟩))
          · rw [if_neg (by simpa using hwd), if_neg ho] at h
            split at h
            · exact .inr (.inr (.inr ⟨by simp, s.reads, by simpa using h.symm⟩))
            · simp at h
        · rw [if_pos (by simpa using hwd)] at h
          simp at h
      | read offset width =>
        simp only [hostTurn, hostRead, answer] at h
        refine .inr (.inr (.inr ⟨by simp, t.reads, ?_⟩))
        repeat' split at h
        all_goals first
          | (simp at h; done)
          | (injection h with h; subst h; rfl)
  · simp at h

end Sys2Proof.Machine
end

