-- ==== Sys2Proof/Machine/Asm.lean ====
section
/-! DEFINITION. The assembler syntax (30_encoding.md rule R92): one command a line, the source's function names as second
spellings, and the pseudo-instruction INIT. -/

namespace Sys2Proof.Machine

/-- The text of a line up to its comment sign. -/
def uncommented : List Char → List Char
  | [] => []
  | c :: cs => if c = ';' then [] else c :: uncommented cs

/-- Spaces, tabs and the commas between operands part the words of a line. -/
def partsWords (c : Char) : Bool := c = ' ' || c = '\t' || c = ','

/-- The words of a line; `acc` holds the letters of the word under way, last letter first. -/
def wordsFrom (acc : List Char) : List Char → List (List Char)
  | [] => if acc.isEmpty then [] else [acc.reverse]
  | c :: cs =>
    if partsWords c then (if acc.isEmpty then wordsFrom [] cs else acc.reverse :: wordsFrom [] cs)
    else wordsFrom (c :: acc) cs

/-- The value of a digit in the given base. -/
def digitOf (base : Nat) (c : Char) : Option Nat :=
  let v :=
    if '0' ≤ c ∧ c ≤ '9' then some (c.toNat - '0'.toNat)
    else if 'a' ≤ c ∧ c ≤ 'f' then some (c.toNat - 'a'.toNat + 10)
    else if 'A' ≤ c ∧ c ≤ 'F' then some (c.toNat - 'A'.toNat + 10)
    else none
  v.filter (· < base)

/-- The number that a row of digits spells, after the value `acc` of the digits before it. -/
def digitsFrom (base acc : Nat) : List Char → Option Nat
  | [] => some acc
  | c :: cs =>
    match digitOf base c with
    | some d => digitsFrom base (acc * base + d) cs
    | none => none

/-- A number: hexadecimal `0x..` or decimal (R92). -/
def numberOf : List Char → Option Nat
  | [] => none
  | '0' :: 'x' :: c :: cs => digitsFrom 16 0 (c :: cs)
  | c :: cs => digitsFrom 10 0 (c :: cs)

/-- A number that fits in `n` bits (R81: operands are unsigned and used as they stand). -/
def fieldOf (n : Nat) (t : List Char) : Option (BitVec n) :=
  match numberOf t with
  | some v => if v < 2 ^ n then some (BitVec.ofNat n v) else none
  | none => none

/-- The selector of DELAY's operand (R92). -/
def selectorOf (t : List Char) : Option (BitVec 2) :=
  if t = ['P', 'R', 'E'] then some 0
  else if t = ['I', 'N', 'I', 'T'] then some 1
  else if t = ['C', 'L', 'E', 'A', 'R'] then some 2
  else none

/-- A mnemonic without operands; INIT is EXPINIT followed by LCDINIT (R92). -/
def plainOf (m : List Char) : Option (List Instr) :=
  if m = "BEGIN".toList ∨ m = "begin".toList then some [.beginCs]
  else if m = "END".toList ∨ m = "end".toList then some [.endCs]
  else if m = "EXPINIT".toList then some [.expinit]
  else if m = "GETBTN".toList ∨ m = "getButtons".toList then some [.getbtn]
  else if m = "BUSYRD".toList then some [.busyrd]
  else if m = "BUSYWAIT".toList then some [.busywait]
  else if m = "LCDINIT".toList then some [.lcdinit]
  else if m = "INIT".toList then some [.expinit, .lcdinit]
  else none

/-- A mnemonic with one operand (R92). -/
def unaryOf (m x : List Char) : Option (List Instr) :=
  if m = "XFER".toList ∨ m = "transfer".toList then (fieldOf 8 x).map fun d => [.xfer d]
  else if m = "RDREG".toList ∨ m = "readRegister".toList then (fieldOf 8 x).map fun a => [.rdreg a]
  else if m = "WRCMD".toList ∨ m = "writeCommand".toList then (fieldOf 8 x).map fun c => [.wrcmd c]
  else if m = "WRDATA".toList ∨ m = "writeData".toList then (fieldOf 8 x).map fun d => [.wrdata d]
  else if m = "DELAY".toList then (selectorOf x).map fun s => [.delay s]
  else none

/-- A mnemonic with two operands (R92). -/
def binaryOf (m x y : List Char) : Option (List Instr) :=
  if m = "WRREG".toList ∨ m = "writeRegister".toList then
    match fieldOf 8 x, fieldOf 8 y with
    | some a, some v => some [.wrreg a v]
    | _, _ => none
  else if m = "PULSE4".toList then
    match fieldOf 1 x, fieldOf 4 y with
    | some rs, some n => some [.pulse4 (rs == 1) n]
    | _, _ => none
  else none

/-- The commands of one line; an empty line or a comment gives none (R92). -/
def assembleLine (line : List Char) : Option (List Instr) :=
  match wordsFrom [] (uncommented line) with
  | [] => some []
  | [m] => plainOf m
  | [m, x] => unaryOf m x
  | [m, x, y] => binaryOf m x y
  | _ => none

/-- The command words of a program, line by line. -/
def assemble : List (List Char) → Option (List Word)
  | [] => some []
  | l :: ls =>
    match assembleLine l, assemble ls with
    | some is, some ws => some (is.map encode ++ ws)
    | _, _ => none

end Sys2Proof.Machine
end

