-- ==== Sys2Proof/Tests/Slice0.lean ====
section
/-! SUPPORT. The model's own tests: what is ill-formed is refused, words written out from the spec decode as it says, single
steps give what the spec's vectors give, and every statement with hypotheses has a state and operands that meet them. -/

namespace Sys2Proof.Tests

open Sys2Proof Sys2Proof.Machine

/-! ### States the tests stand in -/

/-- After expander initialisation (R124). -/
def inited : State := { State.reset with ei := true }

/-- With a window open (R100). -/
def opened : State := { State.reset with csN := false }

/-- After expander initialisation, with a window open. -/
def initedOpened : State := { inited with csN := false }

/-- After both initialisations (V20). -/
def bothInited : State := { inited with li := true }

/-- The host writes the word to `CMD` next. -/
def writing (s : State) (w : Word) : State := { s with host := [.write 0x0 32 w] }

/-- The block stands at the pseudocode `k` of the command `w`. -/
def running (s : State) (w : Word) (k : List Op) : State := { s with seq := .run w k }

/-- What the step of a state leaves of `STATUS`, `FCMD`, the trace past the reset's events and `RV`. -/
def seen : Host.Outcome State Fault Refusal → Option (Word × Word × List Event × Bool)
  | .next t => some (t.status, t.fcmd, t.trace.drop 4, t.rv)
  | .fault _ => none
  | .refused _ => none

/-- The next primitive of a running command. -/
def nextOp (o : Host.Outcome State Fault Refusal) : Option Op :=
  match o with
  | .next t =>
    match t.seq with
    | .idle => none
    | .run _ k => k.head?
  | .fault _ => none
  | .refused _ => none

/-- The bytes that pseudocode puts into its XFERs, in order. -/
def sentBytes : List Op → List Byte
  | [] => []
  | .let_ (.xferStart d) :: k => d :: sentBytes k
  | _ :: k => sentBytes k

/-- The environment presents only zeros for `n` samples, which no busy read finds busy. -/
def quiet (n : Nat) (s : State) : State := { s with miso := List.replicate n false }

/-! ### Ill-formed commands and configurations are refused (R8, R90) -/

theorem test_wf_delaySelector : Instr.wf (.delay 3) = false := by decide

theorem test_wf_others : Instr.wf (.delay 2) = true ∧ Instr.wf (.pulse4 true 0xF) = true := by decide

theorem test_exec_illFormed :
    seen (exec (.delay 3) State.reset) = some (0x110, 0xE0000300, [.issue 0xE0000300, .fault .illegalCmd 0xE0000300], false) := by
  decide

theorem test_config_default : Config.default.wf = true := by decide

theorem test_config_pins :
    Config.wf { Config.default with pinMiso := Config.default.pinCs } = false
      ∧ Config.wf { Config.default with pinSck := Config.default.pinMosi } = false := by decide

theorem test_config_opcodes : Config.wf { Config.default with opcRead := 0x40 } = false := by decide

theorem test_config_controlBits :
    Config.wf { Config.default with pbE := 0x44 } = false ∧ Config.wf { Config.default with pbE := 0x01 } = false
      ∧ Config.wf { Config.default with pbE := 0x10 } = false := by decide

theorem test_config_busyLimit :
    Config.wf { Config.default with busyLimit := some 0 } = false
      ∧ Config.wf { Config.default with busyLimit := some 1 } = true := by decide

theorem test_step_illFormedConfig :
    step { State.reset with cfg := { Config.default with busyLimit := some 0 } } = .refused .illFormedConfig := rfl

/-! ### Words written out bit by bit from R80 to R82 decode (V1 to V14), and V21's are illegal -/

theorem test_decode_begin : decode 0b0001_00000000000_0_00000000_00000000 = .ok .beginCs := by decide
theorem test_decode_end : decode 0b0010_00000000000_0_00000000_00000000 = .ok .endCs := by decide
theorem test_decode_xfer : decode 0b0011_00000000000_0_00000000_10100101 = .ok (.xfer 0xA5) := by decide
theorem test_decode_rdreg : decode 0b0100_00000000000_0_00010010_00000000 = .ok (.rdreg 0x12) := by decide
theorem test_decode_wrreg : decode 0b0101_00000000000_0_00010011_11000010 = .ok (.wrreg 0x13 0xC2) := by decide
theorem test_decode_expinit : decode 0b0110_00000000000_0_00000000_00000000 = .ok .expinit := by decide
theorem test_decode_getbtn : decode 0b0111_00000000000_0_00000000_00000000 = .ok .getbtn := by decide
theorem test_decode_busyrd : decode 0b1000_00000000000_0_00000000_00000000 = .ok .busyrd := by decide
theorem test_decode_busywait : decode 0b1001_00000000000_0_00000000_00000000 = .ok .busywait := by decide
theorem test_decode_pulse4 :
    decode 0b1010_00000000000_1_00000000_00001111 = .ok (.pulse4 true 0xF)
      ∧ decode 0b1010_00000000000_0_00000000_00000011 = .ok (.pulse4 false 0x3) := by decide
theorem test_decode_wrcmd : decode 0b1011_00000000000_0_00000000_00101000 = .ok (.wrcmd 0x28) := by decide
theorem test_decode_wrdata : decode 0b1100_00000000000_0_00000000_01000001 = .ok (.wrdata 0x41) := by decide
theorem test_decode_lcdinit : decode 0b1101_00000000000_0_00000000_00000000 = .ok .lcdinit := by decide
theorem test_decode_delay :
    decode 0b1110_00000000000_0_00000001_00000000 = .ok (.delay 1)
      ∧ decode 0b1110_00000000000_0_00000010_00000000 = .ok (.delay 2) := by decide

theorem test_decode_illegal :
    decode 0x00000000 = .error .reservedOp ∧ decode 0xF0000000 = .error .reservedOp
      ∧ decode 0x30010000 = .error .mustBeZero ∧ decode 0x10000001 = .error .mustBeZero
      ∧ decode 0x40001201 = .error .mustBeZero ∧ decode 0x50020000 = .error .mustBeZero
      ∧ decode 0xA0000013 = .error .mustBeZero ∧ decode 0xA0000103 = .error .mustBeZero
      ∧ decode 0xE0000300 = .error .delaySelector ∧ decode 0xE0000400 = .error .mustBeZero
      ∧ decode 0x6FFFFFFF = .error .mustBeZero := by decide

/-! ### Operand forms -/

/-- V10. -/
theorem test_pulse_values :
    pulseEnable Config.default false 0x3 = 0xC3 ∧ pulseLatch Config.default false 0x3 = 0x83
      ∧ pulseEnable Config.default true 0xF = 0xDF ∧ pulseLatch Config.default true 0x0 = 0x90 := by decide

/-- V8a to V8d. -/
theorem test_status_assembly :
    assembleStatus (dataNibble 0xE8) (dataNibble 0xE3) = 0x83 ∧ assembleStatus (dataNibble 0x07) (dataNibble 0xF5) = 0x75
      ∧ assembleStatus (dataNibble 0xF0) (dataNibble 0xFF) = 0x0F ∧ busyFlag 0x83 = true ∧ busyFlag 0x0F = false := by decide

/-- V1, V2c, V2d: the first draw is bit 7. -/
theorem test_draw_order :
    byteOfDraws [true, false, false, true, true, true, false, false] = 0x9C
      ∧ byteOfDraws [false, false, false, false, false, false, false, true] = 0x01
      ∧ byteOfDraws [true, false, false, false, false, false, false, false] = 0x80 := by decide

/-! ### The bytes of each command's transactions, at the default parameters -/

/-- V4, V7. -/
theorem test_bytes_reads :
    sentBytes (rdregCode Config.default 0x12) = [0x41, 0x12, 0x00]
      ∧ sentBytes (getbtnCode Config.default) = [0x41, 0x12, 0x00] := by decide

/-- V5. -/
theorem test_bytes_wrreg : sentBytes (wrregCode Config.default 0x13 0xC2) = [0x40, 0x13, 0xC2] := by decide

/-- V6. -/
theorem test_bytes_expinit :
    sentBytes (expinitCode Config.default) = [0x40, 0x00, 0xFF, 0x40, 0x0C, 0xFF, 0x40, 0x01, 0x00] := by decide

/-- V8, V8e: the trailing write of `DEASSERT` is the only difference. -/
theorem test_bytes_busyrd :
    sentBytes (busyrdCode Config.default) =
        [0x40, 0x13, 0xA0, 0x40, 0x13, 0xE0, 0x41, 0x13, 0x00, 0x40, 0x13, 0xA0, 0x40, 0x13, 0xE0, 0x41, 0x13, 0x00]
      ∧ (sentBytes (busyrdCode { Config.default with pollTail := .deassert })).drop 18 = [0x40, 0x13, 0xA0] := by decide

/-- V10. -/
theorem test_bytes_pulse4 : sentBytes (pulse4Code Config.default true 0xF) = [0x40, 0x13, 0xDF, 0x40, 0x13, 0x9F] := by decide

/-- V11: the pulses of WRCMD 0x28 stand after the first and the second busy read. -/
theorem test_bytes_wrcmd :
    ((sentBytes (wrcmdCode Config.default 0x28)).drop 18).take 6 = [0x40, 0x13, 0xC2, 0x40, 0x13, 0x82]
      ∧ ((sentBytes (wrcmdCode Config.default 0x28)).drop 42).take 6 = [0x40, 0x13, 0xC8, 0x40, 0x13, 0x88] := by decide

/-- V12. -/
theorem test_bytes_wrdata :
    ((sentBytes (wrdataCode Config.default 0x41)).drop 18).take 6 = [0x40, 0x13, 0xD4, 0x40, 0x13, 0x94]
      ∧ ((sentBytes (wrdataCode Config.default 0x41)).drop 42).take 6 = [0x40, 0x13, 0xD1, 0x40, 0x13, 0x91] := by decide

/-- V13: the first mode pulse, and 96 windows of three bytes. -/
theorem test_bytes_lcdinit :
    (sentBytes (lcdinitCode Config.default)).take 6 = [0x40, 0x13, 0xC3, 0x40, 0x13, 0x83]
      ∧ (sentBytes (lcdinitCode Config.default)).length = 3 * 96 := by decide +kernel

/-! ### One step -/

/-- V3: BEGIN is issued, and stands at its one primitive. -/
theorem test_step_begin :
    seen (step (writing State.reset 0x10000000)) = some (0x001, 0, [.issue 0x10000000], false)
      ∧ nextOp (exec .beginCs State.reset) = some (.act (.clear .cs)) := by decide

/-- V3: the primitive of BEGIN, with the command's completion. -/
theorem test_turn_begin :
    seen (.next (blockTurn (running State.reset 0x10000000 [.act (.clear .cs)]))) =
      some (0x020, 0, [.clear .cs, .done 0x10000000], false) := by decide

/-- V3: the primitive of END. -/
theorem test_turn_end :
    seen (.next (blockTurn (running opened 0x20000000 [.act (.set .cs)]))) =
      some (0x000, 0, [.set .cs, .done 0x20000000], false) := by decide

/-- V1, V2a: the drive of bit 7 of 0xA5, which is 1, and of a 0 bit while data-out is low already; and a sample. -/
theorem test_turn_cell :
    seen (.next (blockTurn (running { opened with xo := 0xA5, xb := 7 } 0x300000A5 [.act .drive, .act .sample]))) =
        some (0x021, 0, [.set .mosi], false)
      ∧ seen (.next (blockTurn (running opened 0x30000000 [.act .drive, .act .sample]))) =
        some (0x021, 0, [.clear .mosi], false)
      ∧ ∃ t, blockTurn (running { opened with miso := [true] } 0x300000A5 [.act .sample, .act (.set .sck)]) = t
        ∧ t.xi = 0x01 ∧ t.miso = [] ∧ t.trace.drop 4 = [.read true] := ⟨by decide, by decide, _, rfl, by decide⟩

/-- V1: the last clock edge completes XFER, which writes `RESULT`. -/
theorem test_turn_xfer_done :
    ∃ t, blockTurn (running { opened with sck := true, mosi := true, xi := 0x9C } 0x300000A5
        [.act (.clear .sck), .let_ .xferReturn, .let_ .result]) = t
      ∧ t.rb = 0x9C ∧ t.status = 0x022 ∧ t.mosi = true ∧ t.trace.drop 4 = [.clear .sck, .done 0x300000A5] :=
  ⟨_, rfl, by decide⟩

/-- V6: the last edge of EXPINIT sets `EI`. -/
theorem test_turn_expinit_done :
    ∃ t, blockTurn (running opened 0x60000000 [.act (.set .cs), .let_ .setEi]) = t ∧ t.status = 0x004 :=
  ⟨_, rfl, by decide⟩

/-- V13: the end of LCDINIT sets `LI`. -/
theorem test_turn_lcdinit_done :
    ∃ t, blockTurn (running { initedOpened with st := 0x00 } 0xD0000000 [.act (.set .cs), .pollTest, .let_ .setLi]) = t
      ∧ t.status = 0x00C := ⟨_, rfl, by decide⟩

/-- V9a: after a busy status the poll goes round, and after 0x05 it returns it. -/
theorem test_turn_busywait :
    (∃ t, blockTurn (running { initedOpened with st := 0x83 } 0x90000000 [.act (.set .cs), .pollTest, .let_ .result]) = t
        ∧ t.status = 0x005 ∧ t.nb = 1)
      ∧ ∃ t, blockTurn (running { initedOpened with st := 0x05 } 0x90000000 [.act (.set .cs), .pollTest, .let_ .result]) = t
        ∧ t.status = 0x006 ∧ t.rb = 0x05 := ⟨⟨_, rfl, by decide⟩, ⟨_, rfl, by decide⟩⟩

/-- V9c: the timeout. -/
theorem test_turn_busyTimeout :
    ∃ t, blockTurn (running inited 0x90000000 [.act (.raise .busyTimeout), .let_ .result]) = t
      ∧ seen (.next t) = some (0x914, 0x90000000, [.fault .busyTimeout 0x90000000], false) := ⟨_, rfl, by decide⟩

/-- V14: DELAY INIT. -/
theorem test_turn_delay :
    nextOp (exec (.delay 1) State.reset) = some (.act (.delay .init))
      ∧ seen (.next (blockTurn (running State.reset 0xE0000100 [.act (.delay .init)]))) =
          some (0x000, 0, [.delay .init, .done 0xE0000100], false) := by decide

/-! ### Faults -/

/-- V15. -/
theorem test_fault_xferNoCs :
    seen (step (writing State.reset 0x300000A5)) =
      some (0x310, 0x300000A5, [.issue 0x300000A5, .fault .xferNoCs 0x300000A5], false) := by decide

/-- V16. -/
theorem test_fault_nestedCs :
    seen (step (writing opened 0x10000000)) =
      some (0x410, 0x10000000, [.issue 0x10000000, .fault .nestedCs 0x10000000, .set .cs], false) := by decide

/-- V17. -/
theorem test_fault_endNoCs :
    seen (step (writing State.reset 0x20000000)) =
      some (0x510, 0x20000000, [.issue 0x20000000, .fault .endNoCs 0x20000000], false) := by decide

/-- V18. -/
theorem test_fault_notInit :
    [0xB0000041, 0x80000000, 0x90000000, 0xA0000003, 0xC0000041, 0xD0000000].all (fun w =>
      seen (step (writing State.reset w)) = some (0x610, w, [.issue w, .fault .notInit w], false)) = true := by decide

/-- V19. -/
theorem test_fault_expReinit :
    seen (step (writing inited 0x60000000)) =
      some (0x714, 0x60000000, [.issue 0x60000000, .fault .expReinit 0x60000000], false) := by decide

/-- V20. -/
theorem test_fault_lcdReinit :
    seen (step (writing bothInited 0xD0000000)) =
      some (0x81C, 0xD0000000, [.issue 0xD0000000, .fault .lcdReinit 0xD0000000], false) := by decide

/-- V22a, V22b. -/
theorem test_fault_priority_lcdinit :
    seen (step (writing opened 0xD0000000)) =
        some (0x610, 0xD0000000, [.issue 0xD0000000, .fault .notInit 0xD0000000, .set .cs], false)
      ∧ seen (step (writing { bothInited with csN := false } 0xD0000000)) =
        some (0x81C, 0xD0000000, [.issue 0xD0000000, .fault .lcdReinit 0xD0000000, .set .cs], false) := by decide

/-- V22c, V22d. -/
theorem test_fault_priority :
    seen (step (writing initedOpened 0x60000000)) =
        some (0x714, 0x60000000, [.issue 0x60000000, .fault .expReinit 0x60000000, .set .cs], false)
      ∧ seen (step (writing State.reset 0xA0000013)) =
        some (0x110, 0xA0000013, [.issue 0xA0000013, .fault .illegalCmd 0xA0000013], false) := by decide

/-- V22e: a write in the fault state is ignored. -/
theorem test_fault_sticky :
    seen (step (writing { State.reset with fc := .xferNoCs, fcmd := 0x300000A5 } 0x20000000)) =
      some (0x310, 0x300000A5, [], false) := by decide

/-- V23, after the first clock rise of a busy read. -/
theorem test_fault_overrun :
    ∃ t, step (writing (running { initedOpened with sck := true } 0xB0000028 [.act (.clear .sck)]) 0x70000000) = .next t
      ∧ seen (.next t) = some (0x214, 0x70000000, [.fault .overrun 0x70000000, .clear .sck, .set .cs], false) :=
  ⟨_, rfl, by decide⟩

/-- V24. -/
theorem test_reset_midCommand :
    ∃ t, step (running { opened with sck := true, mosi := true, rv := true, host := [.reset] } 0x300000A5
        [.act (.clear .sck)]) = .next t
      ∧ seen (.next t) = some (0x000, 0, [.reset, .set .cs, .clear .sck, .clear .mosi], false) := ⟨_, rfl, by decide⟩

/-! ### The host port (R28, R43) -/

theorem test_port_read_status :
    ∃ t, step { bothInited with rv := true, host := [.read 0x4 32] } = .next t ∧ t.reads = [(0x4, 0x00E)] :=
  ⟨_, rfl, by decide⟩

theorem test_port_result_noValue :
    step { State.reset with host := [.read 0x8 32] } = .fault .resultHasNoValue := rfl

theorem test_port_outside :
    step { State.reset with host := [.read 0x10 32] } = .refused (.outOfPort 0x10)
      ∧ step { State.reset with host := [.write 0x0 16 0x1000] } = .refused (.accessWidth 16) := ⟨rfl, rfl⟩

/-! ### The assembler (R92) -/

theorem test_assemble_lines :
    assembleLine "PULSE4 1, 0xF ; both nibbles".toList = some [.pulse4 true 0xF]
      ∧ assembleLine "writeRegister 0x13, 194".toList = some [.wrreg 0x13 0xC2]
      ∧ assembleLine "DELAY CLEAR".toList = some [.delay 2] ∧ assembleLine "XFER 256".toList = none := by decide +kernel

theorem test_assemble_init : assemble ["INIT".toList] = some [0x60000000, 0xD0000000] := by decide +kernel

/-! ### Views -/

/-- V5: the frame view of a write frame's events. -/
theorem test_frames_wrreg :
    frames (frameEvents [(0x40, 0x00), (0x13, 0x00), (0xC2, 0xFF)]) = [[(0x40, 0x00), (0x13, 0x00), (0xC2, 0xFF)]] := by
  decide +kernel

/-- R35: a port B write that OVERRUN cuts after `Set(SCK)` of its last bit shows no `W(v)`: that byte is no whole XFER. -/
theorem test_frames_overrun :
    (let t := [.clear .cs] ++ [(0x40, 0x00), (0x13, 0x00)].flatMap exchangeEvents ++ (exchangeEvents (0xC2, 0xFF)).take 31
        ++ [.fault .overrun 0x70000000, .clear .sck, .set .cs]
     (frames t, portBView Config.default t)) = ([[(0x40, 0x00), (0x13, 0x00)]], []) := by
  decide +kernel

theorem test_portB_entries :
    portBOf Config.default [(0x40, 0x00), (0x13, 0x00), (0xC2, 0xFF)] = some (.w 0xC2)
      ∧ portBOf Config.default [(0x41, 0x00), (0x13, 0x00), (0x00, 0x83)] = some (.r 0x83)
      ∧ portBOf Config.default [(0x40, 0x00), (0x12, 0x00), (0xC2, 0xFF)] = none := by decide

/-! ### Every statement with hypotheses has a state and operands that meet them

Each theorem names the statement whose hypotheses it meets; a statement with several clauses has one part a clause. -/

/-- The well-formed commands with the extreme operands. -/
theorem test_hyp_DecodeReadsBackEveryCommand :
    Instr.wf (.delay 0) = true ∧ Instr.wf (.wrreg 0x00 0xFF) = true ∧ Instr.wf (.pulse4 true 0xF) = true := by decide

theorem test_hyp_EachLegalWordIsItsCommandsWord :
    decode 0x10000000 = .ok .beginCs ∧ decode 0xE0000200 = .ok (.delay 2) := by decide

theorem test_hyp_IllegalWordsAreRefusedByFault :
    State.reset.ready ∧ brokenWord 0x00000000 = true ∧ brokenWord 0xFFFFFFFF = true ∧ brokenWord 0x10000001 = true
      ∧ brokenWord 0xE0000300 = true ∧ brokenWord 0xE0000200 = false := by decide

theorem test_hyp_PortBValuesCarryNibbleAndControls :
    Config.default.wf = true ∧ (3 : Nat) < 4
      ∧ Config.wf { Config.default with pbRs := 0x80, pbBl := 0x10 } = true := by decide

theorem test_hyp_ResetRestoresTheBlock :
    ∃ s : State, s.cfg.wf = true ∧ s.host = .reset :: [.pause] ∧ s.bsy = true ∧ s.csN = false :=
  ⟨running { opened with host := [.reset, .pause] } 0x300000A5 [.act .drive], by decide⟩

theorem test_hyp_StepRunsTheWrittenCommand :
    ∃ s : State, s.cfg.wf = true ∧ decode 0x300000A5 = .ok (.xfer 0xA5) ∧ s.host = .write 0x0 32 0x300000A5 :: [] :=
  ⟨writing opened 0x300000A5, by decide⟩

theorem test_hyp_PausingHostLeavesTheBlockToRun :
    State.reset.cfg.wf = true ∧ State.reset.host = []
      ∧ ∃ s : State, s.cfg.wf = true ∧ s.host = List.replicate 2 .pause ++ [.read 0x4 32] :=
  ⟨by decide, rfl, { State.reset with host := [.pause, .pause, .read 0x4 32] }, by decide⟩

/-- The bounds of the clauses: the last register of the port, the first offset past it, widths beside 32, both values of `RV`. -/
theorem test_hyp_HostPortAnswersItsAccesses :
    State.reset.rv = false ∧ (∃ s : State, s.rv = true) ∧ ¬ 0x10 ≤ 0xC ∧ 0x10 ≤ 0x10 ∧ (31 : Nat) ≠ 32 ∧ (33 : Nat) ≠ 32 :=
  ⟨rfl, ⟨{ State.reset with rv := true }, rfl⟩, by decide⟩

/-- A configuration for each clause, and one that meets them all. -/
theorem test_hyp_IllFormedConfigurationsAreRefused :
    (∃ c : Config, c.pinCs = c.pinSck) ∧ (∃ c : Config, c.opcRead = c.opcWrite) ∧ (∃ c : Config, c.busyLimit = some 0)
      ∧ ¬ [(0x10 : Byte), 0x20, 0x44, 0x80].Perm [0x10, 0x20, 0x40, 0x80] ∧ Config.default.wf = true :=
  ⟨⟨{ Config.default with pinCs := 1 }, rfl⟩, ⟨{ Config.default with opcRead := 0x40 }, rfl⟩,
    ⟨{ Config.default with busyLimit := some 0 }, rfl⟩, by decide, by decide⟩

/-- A state in which the write is ignored, one in which it is an overrun, and an illegal word written while ready. -/
theorem test_hyp_CommandWritesAreCheckedInOrder_early :
    (∃ s : State, s.fc ≠ .none) ∧ (∃ s : State, s.fc = .none ∧ s.inv = true ∧ s.bsy = true)
      ∧ State.reset.ready ∧ brokenWord 0xF0000000 = true :=
  ⟨⟨{ State.reset with fc := .busyTimeout }, by decide⟩, ⟨running State.reset 0x10000000 [.act (.clear .cs)], by decide⟩,
    by decide⟩

/-- One command for each fault of the order, and one that raises none. -/
theorem test_hyp_CommandWritesAreCheckedInOrder :
    State.reset.ready ∧ decode 0x60000000 = .ok .expinit ∧ faultAtDecode .expinit false true false = some .expReinit
      ∧ faultAtDecode .lcdinit false true true = some .lcdReinit ∧ faultAtDecode .busyrd false false false = some .notInit
      ∧ faultAtDecode (.rdreg 0) false false false = some .nestedCs ∧ faultAtDecode (.xfer 0) true false false = some .xferNoCs
      ∧ faultAtDecode .endCs true false false = some .endNoCs ∧ faultAtDecode (.delay 0) false false false = none := by
  decide

theorem test_hyp_WriteWhileBusyOverruns :
    ∃ s : State, s.cfg.wf = true ∧ s.fc = .none ∧ s.seq = .run 0x60000000 [.act (.clear .cs)]
      ∧ s.host = .write 0x0 32 0x00000000 :: [] :=
  ⟨writing (running State.reset 0x60000000 [.act (.clear .cs)]) 0x00000000, by decide⟩

theorem test_hyp_FaultStateStaysUntilReset :
    ∃ s t : State, s.fc ≠ .none ∧ step s = .next t ∧ s.host.head? ≠ some .reset :=
  ⟨{ State.reset with fc := .overrun, host := [.read 0xC 32] }, _, by decide, rfl, by decide⟩

/-- A byte read from samples that are all `b`. -/
theorem misoByte_replicate {n j : Nat} {b : Bool} (s : State) (h : j + 8 ≤ n) (hs : s.miso = List.replicate n b) :
    s.misoByte j = if b then 0xFF else 0x00 := by
  have hm : ∀ i < n, s.misoAt i = b := fun i hi => by simp [State.misoAt, hs, hi]
  simp only [State.misoByte, hm j (by omega), hm (j + 1) (by omega), hm (j + 2) (by omega), hm (j + 3) (by omega),
    hm (j + 4) (by omega), hm (j + 5) (by omega), hm (j + 6) (by omega), hm (j + 7) (by omega)]
  cases b <;> rfl

/-- A busy read whose samples are all `b` finds the LCD busy exactly when `b` is 1. -/
theorem busyFlag_replicate {n j : Nat} {b : Bool} (s : State) (h : j + 144 ≤ n) (hs : s.miso = List.replicate n b) :
    busyFlag (s.busyStatus j) = b := by
  simp only [State.busyStatus, State.readValue, misoByte_replicate s (j := j + 48 + 16) (by omega) hs,
    misoByte_replicate s (j := j + 120 + 16) (by omega) hs]
  cases b <;> rfl

/-- A busy-poll whose samples are all 0 ends with its first busy read. -/
theorem pollEnds_quiet {n j : Nat} (h : j + 144 ≤ n) : (quiet n inited).pollEnds j 0 = true := by
  simp [State.pollEnds, State.busyFor, busyFlag_replicate (quiet n inited) (j := j) h rfl]; rfl

/-- A byte write whose samples are all 0 ends each busy-poll with its first busy read. -/
theorem byteEnds_quiet {n j : Nat} (h : j + 528 ≤ n) : (quiet n inited).byteEnds j ⟨0, 0, 0⟩ = true := by
  have hd : busyReadDraws (quiet n inited).cfg = 144 := rfl
  simp only [State.byteEnds, BytePlan.thirdAt, BytePlan.secondAt, hd]
  rw [pollEnds_quiet (by omega), pollEnds_quiet (by omega), pollEnds_quiet (by omega)]
  rfl

/-- A state in which every busy read finds the LCD busy: each sample is 1. -/
def alwaysBusy : State :=
  { inited with cfg := { Config.default with busyLimit := some 1 }, miso := List.replicate 144 true }

theorem test_hyp_BusyPollTimesOutAtItsLimitOnly_finite :
    alwaysBusy.fc = .none ∧ 1 ≤ 1 ∧ alwaysBusy.cfg.busyLimit = some 1 ∧ alwaysBusy.busyFor 0 1 = true :=
  ⟨rfl, le_refl 1, rfl, by
    rw [State.busyFor, State.busyFor, Bool.and_true]; exact busyFlag_replicate (n := 144) _ (by omega) rfl⟩

theorem test_hyp_BusyPollTimesOutAtItsLimitOnly_unbounded :
    ∃ t, State.reset.inv = true ∧ State.reset.cfg.busyLimit = none ∧ step State.reset = .next t
      ∧ State.reset.fc ≠ .busyTimeout := ⟨_, by decide, rfl, rfl, by decide⟩

/-- The clauses of BEGIN, END, XFER, RDREG, WRREG, GETBTN, the transfer law, the size of a transaction and the raw read frame. -/
theorem test_hyp_windowClauses :
    State.reset.ready ∧ State.reset.csN = true ∧ opened.ready ∧ opened.csN = false := by decide

/-- The clauses of EXPINIT. -/
theorem test_hyp_ExpinitConfiguresThePorts :
    inited.ready ∧ inited.ei = true ∧ opened.ready ∧ opened.ei = false ∧ opened.csN = false
      ∧ State.reset.ready ∧ State.reset.ei = false ∧ State.reset.csN = true := by decide

/-- The clauses of BUSYRD, PULSE4 and the decode checks of BUSYWAIT and LCDINIT. -/
theorem test_hyp_lcdClauses :
    State.reset.ready ∧ State.reset.ei = false ∧ initedOpened.ready ∧ initedOpened.ei = true ∧ initedOpened.csN = false
      ∧ inited.ready ∧ inited.ei = true ∧ inited.csN = true ∧ bothInited.ready ∧ bothInited.li = true := by decide

/-- A busy-poll that ends with its first busy read, and one that reaches its limit. -/
theorem test_hyp_BusywaitPollsUntilNotBusy :
    (quiet 144 inited).ready ∧ (quiet 144 inited).ei = true ∧ (quiet 144 inited).csN = true
      ∧ (quiet 144 inited).pollEnds 0 0 = true ∧ alwaysBusy.ready ∧ alwaysBusy.ei = true ∧ alwaysBusy.csN = true :=
  ⟨⟨rfl, rfl⟩, rfl, rfl,
    pollEnds_quiet (by omega), ⟨rfl, rfl⟩, rfl, rfl⟩

/-- Both kinds of limit. -/
theorem test_hyp_BusywaitTerminationLaw :
    (quiet 144 inited).cfg.busyLimit = none ∧ (quiet 144 inited).busyFor 0 0 = true
      ∧ busyFlag ((quiet 144 inited).busyStatus 0) = false ∧ alwaysBusy.ready ∧ alwaysBusy.ei = true
      ∧ alwaysBusy.csN = true ∧ alwaysBusy.cfg.busyLimit = some 1 :=
  ⟨rfl, rfl, busyFlag_replicate (n := 144) _ (by omega) rfl, ⟨rfl, rfl⟩, rfl, rfl, rfl⟩

/-- Also of the port B view, whose configuration has no trailing write. -/
theorem test_hyp_ByteWritesTakeTheFiveSteps :
    (quiet 528 inited).ready ∧ (quiet 528 inited).ei = true ∧ (quiet 528 inited).csN = true
      ∧ (quiet 528 inited).byteEnds 0 ⟨0, 0, 0⟩ = true ∧ (quiet 528 inited).cfg.wf = true
      ∧ (quiet 528 inited).cfg.pollTail = .none :=
  ⟨⟨rfl, rfl⟩, rfl, rfl, byteEnds_quiet (by omega), test_config_default, rfl⟩

theorem test_hyp_DelayIsOneEvent :
    State.reset.ready ∧ ((2 : BitVec 2), Dly.clear) ∈ [((0 : BitVec 2), Dly.pre), (1, Dly.init), (2, Dly.clear)] := by decide

theorem test_hyp_LcdinitSendsTheSequence :
    (quiet 2304 inited).ready ∧ (quiet 2304 inited).li = false ∧ (quiet 2304 inited).ei = true
      ∧ (quiet 2304 inited).csN = true
      ∧ (quiet 2304 inited).initEnds ⟨⟨0, 0, 0⟩, ⟨0, 0, 0⟩, ⟨0, 0, 0⟩, ⟨0, 0, 0⟩⟩ = true := by
  refine ⟨⟨rfl, rfl⟩, rfl, rfl, rfl, ?_⟩
  have hd : busyReadDraws (quiet 2304 inited).cfg = 144 := rfl
  simp only [State.initEnds, InitPlan.entryAt, InitPlan.thirdAt, InitPlan.secondAt, BytePlan.endAt, BytePlan.thirdAt,
    BytePlan.secondAt, hd]
  rw [byteEnds_quiet (by omega), byteEnds_quiet (by omega), byteEnds_quiet (by omega), byteEnds_quiet (by omega)]
  rfl

/-- Also of the statements that windows never nest and that a result is written on completion only. -/
theorem test_hyp_EveryStepKeepsTheInvariant :
    ∃ s t : State, s.inv = true ∧ step s = .next t ∧ s.bsy = true :=
  ⟨running State.reset 0x10000000 [.act (.clear .cs)], _, by decide, rfl, by decide⟩

theorem test_hyp_WindowsNeverNest :
    ∃ s t : State, s.inv = true ∧ step s = .next t ∧ t.trace = s.trace ++ [.clear .cs, .done 0x10000000] :=
  ⟨running State.reset 0x10000000 [.act (.clear .cs)], _, by decide, rfl, by decide⟩

theorem test_hyp_LevelsAreThoseLastDriven : ∃ s t : State, s.levelsFollowTrace ∧ step s = .next t :=
  ⟨State.reset, _, fun p v => by cases p <;> cases v <;> decide, rfl⟩

/-- Of the statements that the trace only grows and that the configuration is fixed. -/
theorem test_hyp_stepAnswersNext : ∃ t, step (writing State.reset 0x10000000) = .next t := ⟨_, rfl⟩

/-- The last cut before a byte is whole, and each tail. -/
theorem test_hyp_CutBytesAreLeftOutOfTheFrameView :
    (31 : Nat) < 32 ∧ ∃ t1 t2 t3 : List Event, t1 = [.fault .overrun 0, .clear .sck, .set .cs]
      ∧ t2 = [.fault .overrun 0, .set .cs] ∧ t3 = resetEvents := ⟨by decide, _, _, _, rfl, rfl, rfl⟩

theorem test_hyp_EachStepIsOnePrimitive :
    ∃ s : State, s.inv = true ∧ s.seq = .run 0xE0000000 [.act (.delay .pre)] :=
  ⟨running State.reset 0xE0000000 [.act (.delay .pre)], by decide⟩

theorem test_hyp_ResultIsWrittenOnlyOnCompletion :
    ∃ s t : State, s.inv = true ∧ step s = .next t ∧ s.host.head? ≠ some .reset ∧ (t.rb ≠ s.rb ∨ t.rv ≠ s.rv) :=
  ⟨running { opened with sck := true } 0x300000A5 [.act (.clear .sck), .let_ .xferReturn, .let_ .result], _,
    by decide, rfl, by decide, by decide⟩

theorem test_hyp_InitFlagsAreSetOnCompletionOnly :
    (∃ s t : State, s.inv = true ∧ step s = .next t ∧ s.host.head? ≠ some .reset ∧ s.ei = false ∧ t.ei = true)
      ∧ ∃ s t : State, s.inv = true ∧ step s = .next t ∧ s.host.head? ≠ some .reset ∧ s.li = false ∧ t.li = true :=
  ⟨⟨running opened 0x60000000 [.act (.set .cs), .let_ .setEi], _, by decide, rfl, by decide⟩,
    ⟨running initedOpened 0xD0000000 [.act (.set .cs), .let_ .setLi], _, by decide, rfl, by decide⟩⟩

end Sys2Proof.Tests
end

section
/-! SUPPORT. Proofs of the scope family (00_scope.md): the control-line masks of R8 and the port B values built from
them, the refusal of an ill-formed configuration, and the block's step as one primitive (R25). -/

namespace Sys2Proof.Machine

/-! ### The control-line masks (R8) -/

/-- The four control-line masks of a configuration. -/
def controlMasks (c : Config) : List Byte := [c.pbRs, c.pbRw, c.pbE, c.pbBl]

/-- A byte of one bit outside the data mask is one of the bits 7:4. -/
theorem oneBit_outside_data_iff : ∀ b : Byte,
    (oneBit b && (b &&& 0x0F) == 0) = true ↔ b ∈ ([0x10, 0x20, 0x40, 0x80] : List Byte) := by
  decide

theorem controlBitsOk_iff (c : Config) :
    c.controlBitsOk = true ↔ controlMasks c ⊆ [0x10, 0x20, 0x40, 0x80] := by
  simp only [Config.controlBitsOk, List.all_eq_true, oneBit_outside_data_iff]
  rfl

theorem controlBitsDistinct_iff (c : Config) : c.controlBitsDistinct = true ↔ (controlMasks c).Nodup := by
  simp [Config.controlBitsDistinct, controlMasks, and_assoc]

/-- R8's conditions on the control lines say that the masks are the four bits 7:4 in some order. -/
theorem controlBits_iff_perm (c : Config) :
    c.controlBitsOk = true ∧ c.controlBitsDistinct = true ↔ (controlMasks c).Perm [0x10, 0x20, 0x40, 0x80] := by
  rw [controlBitsOk_iff, controlBitsDistinct_iff]
  constructor
  · rintro ⟨hsub, hnodup⟩
    exact (List.subperm_of_subset hnodup hsub).perm_of_length_le le_rfl
  · intro hperm
    exact ⟨hperm.subset, hperm.nodup_iff.mpr (by decide)⟩

theorem busyLimitOk_iff (c : Config) : c.busyLimitOk = true ↔ c.busyLimit ≠ some 0 := by
  cases h : c.busyLimit <;> simp [Config.busyLimitOk, h, Nat.one_le_iff_ne_zero]

/-- The conditions of R8, each as the rule states it. -/
theorem config_wf_iff (c : Config) :
    c.wf = true ↔
      (c.pinCs ≠ c.pinSck ∧ c.pinCs ≠ c.pinMosi ∧ c.pinCs ≠ c.pinMiso
        ∧ c.pinSck ≠ c.pinMosi ∧ c.pinSck ≠ c.pinMiso ∧ c.pinMosi ≠ c.pinMiso)
      ∧ c.opcRead ≠ c.opcWrite ∧ c.busyLimit ≠ some 0 ∧ (controlMasks c).Perm [0x10, 0x20, 0x40, 0x80] := by
  rw [← controlBits_iff_perm, ← busyLimitOk_iff]
  simp only [Config.wf, Config.pinsDistinct, Bool.and_eq_true, bne_iff_ne]
  tauto

/-! ### The values on port B (R86 to R88) -/

/-- In a configuration that meets R8 the data mask and the control-line masks have no bit in common. -/
theorem masks_disjoint {c : Config} (h : c.wf = true) :
    (pbData :: controlMasks c).Pairwise fun x y => x &&& y = 0 ∧ y &&& x = 0 := by
  obtain ⟨-, -, -, hperm⟩ := (config_wf_iff c).mp h
  exact (hperm.symm.cons pbData).pairwise (by decide) And.symm

theorem onDataLines_and_pbData (n : Nibble) : onDataLines n &&& pbData = onDataLines n := by
  revert n; decide

/-- A mask that has no bit in common with the data mask sees nothing of the nibble. -/
theorem onDataLines_and_eq_zero (n : Nibble) {m : Byte} (h : pbData &&& m = 0) : onDataLines n &&& m = 0 := by
  rw [← onDataLines_and_pbData, BitVec.and_assoc, h]
  exact BitVec.and_zero

/-- A byte that carries the nibble under the data mask carries it bit by bit on bits 3:0 (R88). -/
theorem getLsbD_of_and_pbData {v : Byte} {n : Nibble} (h : v &&& pbData = onDataLines n) :
    ∀ i < 4, v.getLsbD i = n.getLsbD i := by
  intro i hi
  have hmask : pbData.getLsbD i = true := by interval_cases i <;> rfl
  have hbit : (v &&& pbData).getLsbD i = (onDataLines n).getLsbD i := by rw [h]
  rw [BitVec.getLsbD_and, hmask, Bool.and_true, onDataLines, BitVec.getLsbD_setWidth] at hbit
  simpa [show i < 8 by omega] using hbit

/-! What a mask `m` sees of each port B value. -/

theorem pulseLatch_and (c : Config) (rs : Bool) (n : Nibble) (m : Byte) :
    pulseLatch c rs n &&& m = c.pbBl &&& m ||| (if rs then c.pbRs &&& m else 0) ||| onDataLines n &&& m := by
  cases rs <;> simp [pulseLatch, BitVec.and_or_distrib_right]

theorem pulseEnable_and (c : Config) (rs : Bool) (n : Nibble) (m : Byte) :
    pulseEnable c rs n &&& m = pulseLatch c rs n &&& m ||| c.pbE &&& m := BitVec.and_or_distrib_right

theorem readIdle_and (c : Config) (m : Byte) : readIdle c &&& m = c.pbBl &&& m ||| c.pbRw &&& m :=
  BitVec.and_or_distrib_right

theorem readStrobe_and (c : Config) (m : Byte) : readStrobe c &&& m = readIdle c &&& m ||| c.pbE &&& m :=
  BitVec.and_or_distrib_right

/-- Settles O5: the masks are pairwise disjoint, so each mask sees its own part of a port B value and nothing else. -/
theorem portBValuesCarryNibbleAndControls : Obligations.PortBValuesCarryNibbleAndControls := by
  intro c rs n hwf
  have hdisj := masks_disjoint hwf
  simp only [controlMasks, List.pairwise_cons, List.forall_mem_cons, List.mem_singleton, forall_eq] at hdisj
  have hlatch : pulseLatch c rs n &&& pbData = onDataLines n := by
    simp [pulseLatch_and, onDataLines_and_pbData, hdisj]
  have henable : pulseEnable c rs n &&& pbData = onDataLines n := by
    simp [pulseEnable_and, hlatch, hdisj]
  refine ⟨fun i hi => ⟨getLsbD_of_and_pbData henable i hi, getLsbD_of_and_pbData hlatch i hi⟩, ?_, ?_, ?_, ?_, ?_, ?_⟩
  · rintro v (rfl | rfl)
    · simp [pulseEnable_and, pulseLatch_and, onDataLines_and_eq_zero, hdisj]
    · simp [pulseLatch_and, onDataLines_and_eq_zero, hdisj]
  · simp [pulseEnable_and, pulseLatch_and, onDataLines_and_eq_zero, hdisj]
  · simp [pulseLatch_and, onDataLines_and_eq_zero, hdisj]
  · rintro v (rfl | rfl)
    · simp [readStrobe_and, readIdle_and, hdisj]
    · simp [readIdle_and, hdisj]
  · simp [readStrobe_and, readIdle_and, hdisj]
  · simp [readIdle_and, hdisj]

/-! ### The refusal of an ill-formed configuration (R8) -/

/-- No turn of the host is refused for the configuration. -/
theorem hostTurn_ne_illFormedConfig (op : HostOp) (s : State) : hostTurn op s ≠ .refused .illFormedConfig := by
  cases op with
  | pause => simp [hostTurn]
  | reset => simp [hostTurn]
  | read offset width =>
    simp only [hostTurn, hostRead, answer]
    repeat' split
    all_goals simp
  | write offset width v =>
    have hcmd : writeCmd v s ≠ .refused .illFormedConfig := by
      obtain ⟨i, -, h⟩ | ⟨-, h⟩ := writeCmd_eq v s <;> simp [h]
    simp only [hostTurn, hostWrite]
    repeat' split
    all_goals simp [hcmd]

theorem step_illFormedConfig_iff (s : State) : step s = .refused .illFormedConfig ↔ ¬ s.cfg.wf = true := by
  simp only [step, cycle]
  split
  next hwf =>
    simp only [hwf, not_true_eq_false, iff_false]
    split
    · simp
    · exact hostTurn_ne_illFormedConfig _ _
  next hwf => simp [hwf]

/-- Settles O12: the step is the refusal exactly when the configuration is ill-formed, which is R8's list negated. -/
theorem illFormedConfigurationsAreRefused : Obligations.IllFormedConfigurationsAreRefused := by
  intro s
  rw [step_illFormedConfig_iff, config_wf_iff, controlMasks]
  tauto

/-! ### The block's step is one primitive (R14, R25) -/

theorem assign_fc (a : Assign) (s : State) : (assign a s).fc = s.fc := Op.apply_fc (.let_ a) s rfl

theorem assign_trace (a : Assign) (s : State) : (assign a s).trace = s.trace := by cases a <;> rfl

/-- Settling either stops at a primitive and appends no event, or completes the command with its `Done` and no other. -/
theorem settle_runs_or_completes (w : Word) (k : List Op) (s : State) :
    (settle w k s).bsy = true ∧ (settle w k s).trace = s.trace
      ∨ (settle w k s).seq = .idle ∧ (settle w k s).fc = s.fc ∧ (settle w k s).trace = s.trace ++ [.done w] := by
  induction k generalizing s with
  | nil => exact .inr ⟨rfl, rfl, rfl⟩
  | cons o k ih =>
    cases o with
    | act p => exact .inl ⟨rfl, rfl⟩
    | let_ a =>
      rw [settle]
      simpa only [assign_fc, assign_trace] using ih (assign a s)
    | pollTest =>
      rw [settle]
      split
      · split <;> exact .inl ⟨rfl, rfl⟩
      · exact ih (forgetPoll { s with nb := s.nb + 1, ret := s.st })

theorem straight_or_raise (p : Prim) : Op.straight (.act p) = true ∨ ∃ c, p = .raise c := by
  cases p with
  | raise c => exact .inr ⟨c, rfl⟩
  | _ => exact .inl rfl

/-- A primitive that raises no fault appends exactly one event, a pin's or a delay's. -/
theorem carryOut_trace (w : Word) (p : Prim) (s : State) (h : Op.straight (.act p) = true) :
    ∃ e, (e.onPin = true ∨ ∃ d, e = .delay d) ∧ (carryOut w p s).trace = s.trace ++ [e] := by
  cases p with
  | set q => exact ⟨.set q, .inl rfl, pinSet_trace q s⟩
  | clear q => exact ⟨.clear q, .inl rfl, pinClear_trace q s⟩
  | drive =>
    simp only [carryOut, driveMosi]
    split
    · exact ⟨.set .mosi, .inl rfl, pinSet_trace .mosi s⟩
    · exact ⟨.clear .mosi, .inl rfl, pinClear_trace .mosi s⟩
  | sample => exact ⟨_, .inl rfl, sampleMiso_trace s⟩
  | delay d => exact ⟨.delay d, .inr ⟨d, rfl⟩, rfl⟩
  | raise c => simp [Op.straight] at h

/-- A step over a primitive that raises no fault carries it out and settles (R25). -/
theorem advance_of_straight (w : Word) (p : Prim) (k : List Op) (s : State) (h : Op.straight (.act p) = true) :
    advance w (.act p :: k) s = settle w k (carryOut w p s) := by
  cases p with
  | raise c => simp [Op.straight] at h
  | _ => rfl

/-- A step over a raised fault enters it (R191). -/
theorem advance_of_raise (w : Word) (c : FaultCode) (k : List Op) (s : State) :
    advance w (.act (.raise c) :: k) s = faultEntry c w s := rfl

/-- The invariant of a state in which a command runs. -/
theorem runningOk_of_inv {s : State} {w : Word} {k : List Op} (hinv : s.inv = true) (hseq : s.seq = .run w k) :
    runningOk s w k = true := by
  simp only [State.inv, hseq, Bool.and_eq_true] at hinv
  exact hinv.1.1

/-- A running command stands at a primitive, in a block without fault. -/
theorem runningOk_atPrimitive {s : State} {w : Word} {k : List Op} (h : runningOk s w k = true) :
    s.fc = .none ∧ ∃ p rest, k = .act p :: rest := by
  simp only [runningOk, Bool.and_eq_true, beq_iff_eq] at h
  obtain ⟨⟨⟨⟨hfc, -⟩, hat⟩, -⟩, -⟩ := h
  refine ⟨hfc, ?_⟩
  match k, hat with
  | .act p :: rest, _ => exact ⟨p, rest, rfl⟩

/-- A running command raises `BUSY_TIMEOUT` only, with chip-select deasserted and the clock low (R189). -/
theorem runningOk_raise {s : State} {w : Word} {c : FaultCode} {k : List Op}
    (h : runningOk s w (.act (.raise c) :: k) = true) : c = .busyTimeout ∧ s.csN = true ∧ s.sck = false := by
  simp only [runningOk, disciplined, Bool.and_eq_true, Bool.not_eq_true'] at h
  obtain ⟨⟨⟨⟨-, ⟨hcs, hsck⟩, -⟩, -⟩, -⟩, hown⟩ := h
  refine ⟨?_, hcs, hsck⟩
  cases hd : decode w with
  | error e => simp [hd] at hown
  | ok i =>
    simp only [hd, ownKind, List.all_cons, Bool.and_eq_true, beq_iff_eq] at hown
    exact hown.2.1.1

/-- Settles O39: by cases on the primitive the command stands at, a raised fault or any other. -/
theorem eachStepIsOnePrimitive : Obligations.EachStepIsOnePrimitive := by
  intro s w k hinv hseq
  have hok := runningOk_of_inv hinv hseq
  obtain ⟨hfc, p, rest, rfl⟩ := runningOk_atPrimitive hok
  rw [blockTurn_of_running hfc hseq]
  obtain hp | ⟨c, rfl⟩ := straight_or_raise p
  · obtain ⟨e, he, htrace⟩ := carryOut_trace w p s hp
    have hkept : (carryOut w p s).fc = .none := by
      rw [carryOut_word w 0 p s hp]
      exact (Op.apply_fc (.act p) s hp).trans hfc
    rw [advance_of_straight w p rest s hp]
    refine ⟨e, he.imp_right .inl, ?_⟩
    obtain ⟨hbsy, ht⟩ | ⟨hidle, hf, ht⟩ := settle_runs_or_completes w rest (carryOut w p s)
    · exact .inl ⟨hbsy, ht.trans htrace⟩
    · exact .inr (.inl ⟨⟨hf.trans hkept, hidle⟩, by rw [ht, htrace, List.append_assoc]; rfl⟩)
  · obtain ⟨rfl, hcs, hsck⟩ := runningOk_raise hok
    rw [advance_of_raise]
    obtain ⟨hf, -, hidle, -, -, -, -, -, -, -, -, -, -, -, -, ht⟩ := faultEntry_effect .busyTimeout w s
    exact ⟨.fault .busyTimeout w, .inr (.inr rfl), .inr (.inr ⟨hf, hidle, by simpa [hcs, hsck] using ht⟩)⟩

end Sys2Proof.Machine
end

section
/-! SUPPORT. The decoder inverts the encoder on well-formed commands (30_encoding.md rules R82, R93). -/

namespace Sys2Proof

@[simp] theorem opOf_c32 (op : BitVec 4) (r : Bool) (a d : Byte) : opOf (c32 op r a d) = op := opOf_ofFields op 0 r a d

@[simp] theorem rOf_c32 (op : BitVec 4) (r : Bool) (a d : Byte) : rOf (c32 op r a d) = r := rOf_ofFields op 0 r a d

@[simp] theorem aOf_c32 (op : BitVec 4) (r : Bool) (a d : Byte) : aOf (c32 op r a d) = a := aOf_ofFields op 0 r a d

@[simp] theorem dOf_c32 (op : BitVec 4) (r : Bool) (a d : Byte) : dOf (c32 op r a d) = d := dOf_ofFields op 0 r a d

theorem nOf_eq (w : Word) : nOf w = (dOf w).extractLsb' 0 4 := by
  apply BitVec.eq_of_getLsbD_eq
  intro i hi
  simp only [nOf, dOf, BitVec.getLsbD_extractLsb']
  interval_cases i <;> simp

/-- A row takes a packed word whose masked fields are the row's; each row's mask keeps `OP` and `Z` whole (R82). -/
theorem row_c32 {mtch mask : Word} {op : BitVec 4} {r : Bool} {a d : Byte} (mr : Bool) (ma md : Byte) (i : Instr)
    (hmask : mask = ofFields 0xF 0x7FF mr ma md) (hmtch : c32 op (r && mr) (a &&& ma) (d &&& md) = mtch) :
    row (c32 op r a d) mtch mask i = .ok i := by
  have hop : op &&& 0xF = op := BitVec.and_allOnes
  refine if_pos ?_
  rw [hmask, c32_eq_ofFields, ofFields_and, hop, ← hmtch]
  rfl

/-- The decoder inverts the encoder on well-formed commands: each word passes its row's test, whose mask takes out exactly
the operand fields. -/
theorem decode_encode_of_wf (i : Instr) (h : i.wf = true) : decode (encode i) = .ok i := by
  cases i with
  | xfer d =>
    simp only [decode, encode, opOf_c32, dOf_c32]
    exact row_c32 true 0xFF 0x00 (.xfer d) rfl (by simp; rfl)
  | rdreg a =>
    simp only [decode, encode, opOf_c32, aOf_c32]
    exact row_c32 true 0x00 0xFF (.rdreg a) rfl (by simp; rfl)
  | wrreg a v =>
    simp only [decode, encode, opOf_c32, aOf_c32, dOf_c32]
    exact row_c32 true 0x00 0x00 (.wrreg a v) rfl (by simp; rfl)
  | pulse4 rs n =>
    have hmasked : ∀ n : Nibble, (n.setWidth 8 : Byte) &&& 0xF0 = 0 := by decide
    have hback : ∀ n : Nibble, (n.setWidth 8 : Byte).extractLsb' 0 4 = n := by decide
    simp only [decode, encode, opOf_c32, rOf_c32, nOf_eq, dOf_c32, hback]
    exact row_c32 false 0xFF 0xF0 (.pulse4 rs n) rfl (by rw [hmasked, Bool.and_false]; rfl)
  | wrcmd c =>
    simp only [decode, encode, opOf_c32, dOf_c32]
    exact row_c32 true 0xFF 0x00 (.wrcmd c) rfl (by simp; rfl)
  | wrdata d =>
    simp only [decode, encode, opOf_c32, dOf_c32]
    exact row_c32 true 0xFF 0x00 (.wrdata d) rfl (by simp; rfl)
  | delay s => revert s; decide
  | _ => rfl

end Sys2Proof
end

section
/-! SUPPORT. Each command's pseudocode keeps the transport's discipline and ends with its own assignment, if it has one
(10_state.md R24, R31; 40_transport.md R104, R107; 60_exceptions.md R190). -/

namespace Sys2Proof.Machine

/-! ### The discipline of the pseudocode (R71, R104, R107, R123)

Every piece of pseudocode that is whole in itself can be taken off the front of disciplined pseudocode. -/

theorem disciplined_xferCode (d : Byte) (k : List Op) :
    disciplined false false (xferCode d ++ k) = disciplined false false k := by
  have hcell (i : BitVec 3) (k : List Op) : disciplined false false (bitCode i ++ k) = disciplined false false k := by
    simp [bitCode, disciplined]
  simp only [xferCode, List.flatMap_cons, List.flatMap_nil, List.append_assoc, List.cons_append, List.nil_append,
    disciplined, hcell]

theorem disciplined_wrregCode (c : Config) (a v : Byte) (k : List Op) :
    disciplined true false (wrregCode c a v ++ k) = disciplined true false k := by
  simp [wrregCode, beginCode, endCode, disciplined, disciplined_xferCode]

theorem disciplined_rdregCode (c : Config) (a : Byte) (k : List Op) :
    disciplined true false (rdregCode c a ++ k) = disciplined true false k := by
  simp [rdregCode, beginCode, endCode, disciplined, disciplined_xferCode]

theorem disciplined_busyReadCode (c : Config) (k : List Op) :
    disciplined true false (busyReadCode c ++ k) = disciplined true false k := by
  cases h : c.pollTail <;>
    simp [busyReadCode, h, portBWrite, portBRead, disciplined, disciplined_wrregCode, disciplined_rdregCode]

theorem disciplined_busywaitCode (c : Config) (k : List Op) :
    disciplined true false (busywaitCode c ++ k) = disciplined true false k := by
  simp [busywaitCode, disciplined, disciplined_busyReadCode]

theorem disciplined_pulse4Code (c : Config) (rs : Bool) (n : Nibble) (k : List Op) :
    disciplined true false (pulse4Code c rs n ++ k) = disciplined true false k := by
  simp [pulse4Code, portBWrite, disciplined_wrregCode]

theorem disciplined_lcdByteCode (c : Config) (rs : Bool) (v : Byte) (k : List Op) :
    disciplined true false (lcdByteCode c rs v ++ k) = disciplined true false k := by
  simp [lcdByteCode, disciplined_busywaitCode, disciplined_pulse4Code]

theorem disciplined_lcdinitCode (c : Config) : disciplined true false (lcdinitCode c) = true := by
  cases h : c.initOrder <;>
    simp [lcdinitCode, h, modePulseCode, clearCode, wrcmdCode, delayCode, disciplined, disciplined_pulse4Code,
      disciplined_lcdByteCode]

/-! ### The checks of a command that pass (R183 to R190) -/

@[simp] theorem checkNoWindow_eq_none (s : State) : checkNoWindow s = none ↔ s.csN = true := by simp [checkNoWindow]

@[simp] theorem checkXferWindow_eq_none (s : State) : checkXferWindow s = none ↔ s.csN = false := by
  simp [checkXferWindow]

@[simp] theorem checkEndWindow_eq_none (s : State) : checkEndWindow s = none ↔ s.csN = false := by
  simp [checkEndWindow]

@[simp] theorem checkExpFirst_eq_none (s : State) : checkExpFirst s = none ↔ s.ei = false := by simp [checkExpFirst]

@[simp] theorem checkLcdFirst_eq_none (s : State) : checkLcdFirst s = none ↔ s.li = false := by simp [checkLcdFirst]

@[simp] theorem checkExpReady_eq_none (s : State) : checkExpReady s = none ↔ s.ei = true := by simp [checkExpReady]

@[simp] theorem firstFault_cons_eq_none (c : Option FaultCode) (cs : List (Option FaultCode)) :
    firstFault (c :: cs) = none ↔ c = none ∧ firstFault cs = none := by
  cases c <;> simp [firstFault]

@[simp] theorem firstFault_nil : firstFault [] = none := rfl

@[simp] theorem checkLcd_eq_none (s : State) : checkLcd s = none ↔ s.ei = true ∧ s.csN = true := by simp [checkLcd]

/-- The only command that is not well formed is refused by its check (R90). -/
theorem wf_of_checkOf_eq_none {i : Instr} {s : State} (h : checkOf i s = none) : i.wf = true := by
  cases i with
  | delay sel =>
    have hall : ∀ sel : BitVec 2, (delayOf sel).isSome = true → Instr.wf (.delay sel) = true := by decide
    refine hall sel ?_
    cases hd : delayOf sel <;> simp_all [checkOf]
  | _ => rfl

/-- A command whose checks pass has disciplined pseudocode, from the levels of an idle block. -/
theorem disciplined_codeOf (i : Instr) (s : State) (hcheck : checkOf i s = none) :
    disciplined s.csN false (codeOf i s.cfg) = true := by
  cases i with
  | delay sel =>
    simp only [codeOf]
    cases delayOf sel <;> rfl
  | beginCs | endCs =>
    simp only [checkOf, checkNoWindow_eq_none, checkEndWindow_eq_none] at hcheck
    rw [hcheck]
    rfl
  | xfer d =>
    simp only [checkOf, checkXferWindow_eq_none] at hcheck
    simp [hcheck, codeOf, disciplined_xferCode, disciplined]
  | rdreg a =>
    simp only [checkOf, checkNoWindow_eq_none] at hcheck
    simp [hcheck, codeOf, disciplined_rdregCode, disciplined]
  | getbtn =>
    simp only [checkOf, checkNoWindow_eq_none] at hcheck
    simp [hcheck, codeOf, getbtnCode, disciplined_rdregCode, disciplined]
  | wrreg a v =>
    simp only [checkOf, checkNoWindow_eq_none] at hcheck
    simpa [hcheck, codeOf, disciplined] using disciplined_wrregCode s.cfg a v []
  | expinit =>
    simp only [checkOf, firstFault_cons_eq_none, checkNoWindow_eq_none] at hcheck
    simp [hcheck, codeOf, expinitCode, disciplined_wrregCode, disciplined]
  | busyrd =>
    simp only [checkOf, checkLcd_eq_none] at hcheck
    simp [hcheck, codeOf, busyrdCode, disciplined_busyReadCode, disciplined]
  | busywait =>
    simp only [checkOf, checkLcd_eq_none] at hcheck
    simp [hcheck, codeOf, disciplined_busywaitCode, disciplined]
  | pulse4 rs n =>
    simp only [checkOf, checkLcd_eq_none] at hcheck
    simpa [hcheck, codeOf, disciplined] using disciplined_pulse4Code s.cfg rs n []
  | wrcmd c =>
    simp only [checkOf, checkLcd_eq_none] at hcheck
    simpa [hcheck, codeOf, wrcmdCode, disciplined] using disciplined_lcdByteCode s.cfg false c []
  | wrdata d =>
    simp only [checkOf, checkLcd_eq_none] at hcheck
    simpa [hcheck, codeOf, wrdataCode, disciplined] using disciplined_lcdByteCode s.cfg true d []
  | lcdinit =>
    simp only [checkOf, firstFault_cons_eq_none, checkLcd_eq_none] at hcheck
    simpa [hcheck, codeOf] using disciplined_lcdinitCode s.cfg

/-! ### The assignments that end a command (R31, R124, R152) -/

/-- A line of pseudocode that neither ends a command by writing `RESULT`, `EI` or `LI`, nor raises a fault. -/
def Op.plain : Op → Bool
  | .act (.raise _) => false
  | .let_ .result => false
  | .let_ .setEi => false
  | .let_ .setLi => false
  | _ => true

theorem endsOnly_append {a : List Op} (h : a.all Op.plain = true) (k : List Op) : endsOnly (a ++ k) = endsOnly k := by
  induction a with
  | nil => rfl
  | cons o a ih =>
    simp only [List.all_cons, Bool.and_eq_true] at h
    have hstep : endsOnly (o :: (a ++ k)) = endsOnly (a ++ k) := by
      match o, h.1 with
      | .act _, _ => rfl
      | .pollTest, _ => rfl
      | .let_ b, hb => cases b <;> first | rfl | simp [Op.plain] at hb
    exact hstep.trans (ih h.2)

theorem ownKind_append {a : List Op} (h : a.all Op.plain = true) (i : Instr) (finite ei : Bool) (k : List Op) :
    ownKind i finite ei (a ++ k) = ownKind i finite ei k := by
  induction a with
  | nil => rfl
  | cons o a ih =>
    simp only [List.all_cons, Bool.and_eq_true] at h
    have hstep : ownKind i finite ei (o :: (a ++ k)) = ownKind i finite ei (a ++ k) := by
      match o, h.1 with
      | .act p, hp => cases p <;> simp_all [ownKind, Op.plain]
      | .pollTest, _ => simp [ownKind]
      | .let_ b, hb => cases b <;> simp_all [ownKind, Op.plain]
    exact hstep.trans (ih h.2)

theorem plain_xferCode (d : Byte) : (xferCode d).all Op.plain = true := rfl

theorem plain_wrregCode (c : Config) (a v : Byte) : (wrregCode c a v).all Op.plain = true := by
  simp only [wrregCode, List.all_append, plain_xferCode]
  rfl

theorem plain_rdregCode (c : Config) (a : Byte) : (rdregCode c a).all Op.plain = true := by
  simp only [rdregCode, List.all_append, plain_xferCode]
  rfl

theorem plain_busyReadCode (c : Config) : (busyReadCode c).all Op.plain = true := by
  cases h : c.pollTail <;>
    simp [busyReadCode, h, portBWrite, portBRead, plain_wrregCode, plain_rdregCode, Op.plain, -List.all_eq_true]

theorem plain_busywaitCode (c : Config) : (busywaitCode c).all Op.plain = true := by
  simp only [busywaitCode, List.all_append, plain_busyReadCode]
  rfl

theorem plain_pulse4Code (c : Config) (rs : Bool) (n : Nibble) : (pulse4Code c rs n).all Op.plain = true := by
  simp only [pulse4Code, portBWrite, List.all_append, plain_wrregCode]
  rfl

theorem plain_lcdByteCode (c : Config) (rs : Bool) (v : Byte) : (lcdByteCode c rs v).all Op.plain = true := by
  simp only [lcdByteCode, List.all_append, plain_busywaitCode, plain_pulse4Code]
  rfl

/-- The assignment that ends a command, if it has one. -/
def endingOf : Instr → List Op
  | .xfer _ | .rdreg _ | .getbtn | .busyrd | .busywait => [.let_ .result]
  | .expinit => [.let_ .setEi]
  | .lcdinit => [.let_ .setLi]
  | _ => []

/-- A command's pseudocode is plain up to the assignment that ends it. -/
theorem codeOf_eq_plain_append (i : Instr) (c : Config) :
    ∃ k, k.all Op.plain = true ∧ codeOf i c = k ++ endingOf i := by
  cases i with
  | beginCs | endCs => exact ⟨_, rfl, (List.append_nil _).symm⟩
  | xfer d => exact ⟨xferCode d, rfl, rfl⟩
  | rdreg a => exact ⟨_, plain_rdregCode c a, rfl⟩
  | wrreg a v => exact ⟨_, plain_wrregCode c a v, (List.append_nil _).symm⟩
  | expinit =>
    refine ⟨_, ?_, rfl⟩
    simp only [List.all_append, plain_wrregCode]
    rfl
  | getbtn => exact ⟨_, plain_rdregCode c c.regGpioa, rfl⟩
  | busyrd =>
    refine ⟨busyrdCode c, ?_, rfl⟩
    simp only [busyrdCode, List.all_append, plain_busyReadCode]
    rfl
  | busywait => exact ⟨_, plain_busywaitCode c, rfl⟩
  | pulse4 rs n => exact ⟨_, plain_pulse4Code c rs n, (List.append_nil _).symm⟩
  | wrcmd v => exact ⟨_, plain_lcdByteCode c false v, (List.append_nil _).symm⟩
  | wrdata v => exact ⟨_, plain_lcdByteCode c true v, (List.append_nil _).symm⟩
  | lcdinit =>
    refine ⟨_, ?_, rfl⟩
    cases h : c.initOrder <;>
      simp only [modePulseCode, clearCode, wrcmdCode, List.all_append, plain_pulse4Code, plain_lcdByteCode] <;> rfl
  | delay sel =>
    refine ⟨codeOf (.delay sel) c, ?_, (List.append_nil _).symm⟩
    simp only [codeOf]
    cases delayOf sel <;> rfl

theorem endsOnly_codeOf (i : Instr) (c : Config) : endsOnly (codeOf i c) = true := by
  obtain ⟨k, hplain, hk⟩ := codeOf_eq_plain_append i c
  rw [hk, endsOnly_append hplain]
  cases i <;> rfl

/-- A command's pseudocode is of its own kind; LCD initialisation needs `EI` for it (R186). -/
theorem ownKind_codeOf (i : Instr) (c : Config) (finite : Bool) {ei : Bool} (h : i = .lcdinit → ei = true) :
    ownKind i finite ei (codeOf i c) = true := by
  obtain ⟨k, hplain, hk⟩ := codeOf_eq_plain_append i c
  rw [hk, ownKind_append hplain]
  cases i with
  | lcdinit => rw [h rfl]; rfl
  | _ => rfl

end Sys2Proof.Machine
end

section
/-! SUPPORT. The invariant of every step (O34): what it takes to run pseudocode is kept by each line of it, and gives the
invariant wherever the sequencer settles. -/

namespace Sys2Proof.Machine

/-! ### What it takes to run pseudocode -/

theorem endsOnly_tail {o : Op} {k : List Op} (h : endsOnly (o :: k) = true) : endsOnly k = true := by
  match o, h with
  | .act _, h | .pollTest, h => exact h
  | .let_ a, h =>
    cases a with
    | result | setEi | setLi => rw [List.isEmpty_iff.mp h]; rfl
    | _ => exact h

theorem ownKind_tail {i : Instr} {finite ei : Bool} {o : Op} {k : List Op} (h : ownKind i finite ei (o :: k) = true) :
    ownKind i finite ei k = true := by
  simp only [ownKind, List.contains_cons, List.all_cons, Bool.and_eq_true, Bool.or_eq_true, Bool.not_eq_true',
    Bool.or_eq_false_iff] at h ⊢
  tauto

/-- With `EI` set, pseudocode of its own kind stays so. -/
theorem ownKind_of_ei {i : Instr} {finite ei ei' : Bool} {k : List Op} (hei : ei = true → ei' = true)
    (h : ownKind i finite ei k = true) : ownKind i finite ei' k = true := by
  simp only [ownKind, Bool.and_eq_true, Bool.or_eq_true] at h ⊢
  tauto

/-- The state `s` can settle at the pseudocode `k` of the command `w`, and the invariant will hold. -/
structure CanRun (s : State) (w : Word) (k : List Op) : Prop where
  /-- No fault was entered. -/
  noFault : s.fc = .none
  /-- The pseudocode keeps the discipline, from the state's levels. -/
  disc : disciplined s.csN s.sck k = true
  /-- The assignments that end a command stand at its end. -/
  ends : endsOnly k = true
  /-- The word is a command's, and the pseudocode is of its kind. -/
  kind : ∃ i, decode w = .ok i ∧ ownKind i s.cfg.busyLimit.isSome s.ei k = true
  /-- The LCD is initialised only after the expander. -/
  flags : s.li = true → s.ei = true

theorem runningOk_iff (s : State) (w : Word) (k : List Op) (hflags : s.li = true → s.ei = true) :
    runningOk s w k = true ↔ CanRun s w k ∧ atPrimitive k = true := by
  simp only [runningOk, Bool.and_eq_true, beq_iff_eq]
  constructor
  · rintro ⟨⟨⟨⟨hfc, hdisc⟩, hat⟩, hends⟩, hown⟩
    refine ⟨⟨hfc, hdisc, hends, ?_, hflags⟩, hat⟩
    cases hd : decode w with
    | ok i => exact ⟨i, rfl, by simpa [hd] using hown⟩
    | error e => simp [hd] at hown
  · rintro ⟨⟨hfc, hdisc, hends, ⟨i, hd, hown⟩, -⟩, hat⟩
    exact ⟨⟨⟨⟨hfc, hdisc⟩, hat⟩, hends⟩, by simpa [hd] using hown⟩

theorem flags_iff (s : State) : (!s.li || s.ei) = true ↔ (s.li = true → s.ei = true) := by
  cases s.li <;> simp

theorem inv_of_idle {s : State} (hseq : s.seq = .idle) (hsck : s.sck = false) (hcs : s.fc ≠ .none → s.csN = true)
    (hflags : s.li = true → s.ei = true) : s.inv = true := by
  have hfault : (!s.flt || s.csN) = true := by
    by_cases hf : s.fc = .none
    · simp [State.flt, hf]
    · simp [hcs hf]
  simp [State.inv, hseq, hsck, hfault, (flags_iff s).mpr hflags]

theorem idle_of_inv {s : State} (h : s.inv = true) (hseq : s.seq = .idle) : s.sck = false := by
  simp only [State.inv, hseq, Bool.and_eq_true, Bool.not_eq_true'] at h
  exact h.1.1

theorem flags_of_inv {s : State} (h : s.inv = true) : s.li = true → s.ei = true := by
  rw [State.inv, Bool.and_eq_true] at h
  exact (flags_iff s).mp h.2

theorem canRun_of_inv {s : State} {w : Word} {k : List Op} (h : s.inv = true) (hseq : s.seq = .run w k) :
    CanRun s w k :=
  ((runningOk_iff s w k (flags_of_inv h)).mp (runningOk_of_inv h hseq)).1

/-- Standing at a primitive of pseudocode that it can run, the sequencer keeps the invariant, whatever `NB` is. -/
theorem CanRun.inv_of_running {s : State} {w : Word} {k : List Op} (h : CanRun s w k) (hat : atPrimitive k = true)
    (n : Nat) : State.inv { s with nb := n, seq := .run w k } = true := by
  have hok : runningOk { s with nb := n, seq := .run w k } w k = true := (runningOk_iff s w k h.flags).mpr ⟨h, hat⟩
  have hfault : (!s.flt || s.csN) = true := by simp [State.flt, h.noFault]
  rw [State.inv, Bool.and_eq_true, Bool.and_eq_true]
  exact ⟨⟨hok, hfault⟩, (flags_iff s).mpr h.flags⟩

/-- An assignment leaves pseudocode that can run. -/
theorem CanRun.after_assign {s : State} {w : Word} {a : Assign} {k : List Op} (h : CanRun s w (.let_ a :: k)) :
    CanRun (assign a s) w k := by
  obtain ⟨hfc, hdisc, hends, ⟨i, hd, hown⟩, hflags⟩ := h
  have htail := ownKind_tail hown
  cases a with
  | setEi => exact ⟨hfc, hdisc, endsOnly_tail hends, ⟨i, hd, ownKind_of_ei (fun _ => rfl) htail⟩, fun _ => rfl⟩
  | setLi =>
    have hei : s.ei = true := by
      simp only [ownKind, List.contains_cons, Bool.and_eq_true] at hown
      exact (by simpa using hown.1.2 : i = .lcdinit ∧ s.ei = true).2
    exact ⟨hfc, hdisc, endsOnly_tail hends, ⟨i, hd, htail⟩, fun _ => hei⟩
  | _ => exact ⟨hfc, hdisc, endsOnly_tail hends, ⟨i, hd, htail⟩, hflags⟩

/-- `RESULT.RB`, `RV`, `EI` and `LI` stay as they are. -/
def SameRegisters (s t : State) : Prop := t.rb = s.rb ∧ t.rv = s.rv ∧ t.ei = s.ei ∧ t.li = s.li

/-- A primitive that raises no fault changes no register, nor the configuration. -/
theorem carryOut_frame (w : Word) (p : Prim) (s : State) (hp : Op.straight (.act p) = true) :
    SameRegisters s (carryOut w p s) ∧ (carryOut w p s).fc = s.fc ∧ (carryOut w p s).cfg = s.cfg := by
  cases p with
  | raise c => simp [Op.straight] at hp
  | set q | clear q => cases q <;> exact ⟨⟨rfl, rfl, rfl, rfl⟩, rfl, rfl⟩
  | drive =>
    simp only [carryOut, driveMosi]
    split <;> exact ⟨⟨rfl, rfl, rfl, rfl⟩, rfl, rfl⟩
  | sample | delay d => exact ⟨⟨rfl, rfl, rfl, rfl⟩, rfl, rfl⟩

/-- A primitive that raises no fault takes its line off disciplined pseudocode. -/
theorem disciplined_carryOut {w : Word} {p : Prim} {k : List Op} {s : State} (hp : Op.straight (.act p) = true)
    (h : disciplined s.csN s.sck (.act p :: k) = true) :
    disciplined (carryOut w p s).csN (carryOut w p s).sck k = true := by
  cases p with
  | raise c => simp [Op.straight] at hp
  | set q | clear q =>
    cases q <;> simp only [disciplined, Bool.and_eq_true, reduceCtorEq] at h <;> simpa [carryOut] using h.2
  | drive =>
    simp only [disciplined, Bool.and_eq_true] at h
    simpa [carryOut, driveMosi, apply_ite] using h.2
  | sample | delay d =>
    simp only [disciplined, Bool.and_eq_true] at h
    exact h.2

/-- A primitive that raises no fault leaves pseudocode that can run. -/
theorem CanRun.after_carryOut {s : State} {w : Word} {p : Prim} {k : List Op} (h : CanRun s w (.act p :: k))
    (hp : Op.straight (.act p) = true) : CanRun (carryOut w p s) w k := by
  obtain ⟨hfc, hdisc, hends, ⟨i, hd, hown⟩, hflags⟩ := h
  obtain ⟨⟨-, -, hei, hli⟩, hfc', hcfg⟩ := carryOut_frame w p s hp
  refine ⟨hfc'.trans hfc, disciplined_carryOut hp hdisc, endsOnly_tail hends, ⟨i, hd, ?_⟩, ?_⟩
  · rw [hcfg, hei]
    exact ownKind_tail hown
  · rwa [hli, hei]

/-! The three outcomes of the loop test (R142). -/

/-- The loop test that goes round leaves the sequencer at the next busy read (R142). -/
theorem settle_pollTest_round (w : Word) (k : List Op) (s : State) (hb : busyFlag s.st = true)
    (hl : limitReached s.cfg (s.nb + 1) = false) :
    settle w (.pollTest :: k) s = { s with nb := s.nb + 1, seq := .run w (busyReadCode s.cfg ++ .pollTest :: k) } := by
  rw [settle, if_pos hb, if_neg (by simp [hl])]

theorem CanRun.after_pollTest {s : State} {w : Word} {k : List Op} (h : CanRun s w (.pollTest :: k)) : CanRun s w k := by
  obtain ⟨hfc, hdisc, hends, ⟨i, hd, hown⟩, hflags⟩ := h
  simp only [disciplined, Bool.and_eq_true] at hdisc
  exact ⟨hfc, hdisc.2, hends, ⟨i, hd, ownKind_tail hown⟩, hflags⟩

theorem CanRun.again {s : State} {w : Word} {k : List Op} (h : CanRun s w (.pollTest :: k)) :
    CanRun s w (busyReadCode s.cfg ++ .pollTest :: k) := by
  obtain ⟨hfc, hdisc, hends, ⟨i, hd, hown⟩, hflags⟩ := h
  have hplain := plain_busyReadCode s.cfg
  refine ⟨hfc, ?_, (endsOnly_append hplain _).trans hends, ⟨i, hd, (ownKind_append hplain _ _ _ _).trans hown⟩, hflags⟩
  have hlevels := hdisc
  simp only [disciplined, Bool.and_eq_true, Bool.not_eq_true'] at hlevels
  obtain ⟨⟨hcs, hsck⟩, -⟩ := hlevels
  rw [hcs, hsck] at hdisc ⊢
  exact (disciplined_busyReadCode s.cfg _).trans hdisc

theorem CanRun.timeout {s : State} {w : Word} {k : List Op} (h : CanRun s w (.pollTest :: k))
    (hfinite : s.cfg.busyLimit.isSome = true) : CanRun s w (.act (.raise .busyTimeout) :: k) := by
  obtain ⟨hfc, hdisc, hends, ⟨i, hd, hown⟩, hflags⟩ := h
  exact ⟨hfc, hdisc, hends, ⟨i, hd, by simpa [ownKind, hfinite] using hown⟩, hflags⟩

/-- Settling at pseudocode that can run establishes the invariant. -/
theorem CanRun.inv_settle {s : State} {w : Word} {k : List Op} (h : CanRun s w k) : (settle w k s).inv = true := by
  induction k generalizing s with
  | nil =>
    have hsck : s.sck = false := by simpa [disciplined] using h.disc
    exact inv_of_idle rfl hsck (fun hf => absurd h.noFault hf) h.flags
  | cons o k ih =>
    cases o with
    | act p => exact h.inv_of_running rfl s.nb
    | let_ a => exact ih h.after_assign
    | pollTest =>
      cases hbusy : busyFlag s.st with
      | false =>
        rw [settle_pollTest_done w k s hbusy]
        have hk := h.after_pollTest
        exact ih ⟨hk.noFault, hk.disc, hk.ends, hk.kind, hk.flags⟩
      | true =>
        cases hlimit : limitReached s.cfg (s.nb + 1) with
        | false =>
          rw [settle_pollTest_round w k s hbusy hlimit]
          exact h.again.inv_of_running rfl (s.nb + 1)
        | true =>
          rw [settle_pollTest_timeout w k s hbusy hlimit]
          have hfinite : s.cfg.busyLimit.isSome = true := by
            cases hl : s.cfg.busyLimit <;> simp_all [limitReached]
          exact (h.timeout hfinite).inv_of_running rfl (s.nb + 1)

/-! ### Every operation keeps the invariant -/

theorem inv_faultEntry (c : FaultCode) (w : Word) {s : State} (hflags : s.li = true → s.ei = true) :
    (faultEntry c w s).inv = true := by
  obtain ⟨-, -, hseq, hcs, hsck, -, hei, hli, -⟩ := faultEntry_effect c w s
  refine inv_of_idle hseq hsck (fun _ => hcs) ?_
  rwa [hli, hei]

theorem inv_blockTurn {s : State} (h : s.inv = true) : (blockTurn s).inv = true := by
  cases hseq : s.seq with
  | idle => rwa [blockTurn_of_idle hseq]
  | run w k =>
    have hrun := canRun_of_inv h hseq
    obtain ⟨hfc, p, rest, rfl⟩ := runningOk_atPrimitive (runningOk_of_inv h hseq)
    rw [blockTurn_of_running hfc hseq]
    obtain hp | ⟨c, rfl⟩ := straight_or_raise p
    · rw [advance_of_straight w p rest s hp]
      exact (hrun.after_carryOut hp).inv_settle
    · exact inv_faultEntry c w (flags_of_inv h)

/-- A command whose checks pass can run in an idle block. -/
theorem canRun_issue {i : Instr} {s : State} (h : s.inv = true) (hready : s.ready) (hcheck : checkOf i s = none) :
    CanRun (issue (encode i) (codeOf i s.cfg) s) (encode i) (codeOf i s.cfg) where
  noFault := hready.1
  disc := by
    have hsck := idle_of_inv h hready.2
    simpa [hsck] using disciplined_codeOf i s hcheck
  ends := endsOnly_codeOf i s.cfg
  kind := by
    refine ⟨i, decode_encode_of_wf i (wf_of_checkOf_eq_none hcheck), ownKind_codeOf i s.cfg _ ?_⟩
    rintro rfl
    simp only [checkOf, firstFault_cons_eq_none, checkLcd_eq_none] at hcheck
    exact hcheck.2.1.1
  flags := by simpa using flags_of_inv h

/-- Everything that the acceptance of a word can do: nothing, the entry of a fault, or the start of the pseudocode. -/
theorem accept_cases (w : Word) (check : Option FaultCode) (k : List Op) (s : State) :
    s.fc ≠ .none ∧ accept w check k s = s
      ∨ (∃ w' k', s.seq = .run w' k') ∧ accept w check k s = faultEntry .overrun w s
      ∨ s.ready ∧ (∃ c, check = some c ∧ accept w check k s = faultEntry c w (issue w k s))
      ∨ s.ready ∧ check = none ∧ accept w check k s = settle w k (issue w k s) := by
  by_cases hf : s.fc = .none
  · cases hs : s.seq with
    | run w' k' => exact .inr (.inl ⟨⟨w', k', rfl⟩, accept_of_running w check k hf hs⟩)
    | idle =>
      cases check with
      | some c => exact .inr (.inr (.inl ⟨⟨hf, hs⟩, c, rfl, accept_of_check w c k ⟨hf, hs⟩⟩))
      | none => exact .inr (.inr (.inr ⟨⟨hf, hs⟩, rfl, accept_of_pass w k ⟨hf, hs⟩⟩))
  · exact .inl ⟨hf, accept_of_fault w check k hf⟩

theorem inv_accept {w : Word} {check : Option FaultCode} {k : List Op} {s : State} (h : s.inv = true)
    (hrun : s.ready → check = none → CanRun (issue w k s) w k) : (accept w check k s).inv = true := by
  obtain ⟨-, ha⟩ | ⟨-, ha⟩ | ⟨-, c, -, ha⟩ | ⟨hready, hcheck, ha⟩ := accept_cases w check k s
  · rwa [ha]
  · rw [ha]
    exact inv_faultEntry .overrun w (flags_of_inv h)
  · rw [ha]
    exact inv_faultEntry c w (by simpa using flags_of_inv h)
  · rw [ha]
    exact (hrun hready hcheck).inv_settle

theorem inv_writeCmd {w : Word} {s t : State} (h : s.inv = true) (hw : writeCmd w s = .next t) : t.inv = true := by
  obtain ⟨i, -, he⟩ | ⟨-, he⟩ := writeCmd_eq w s
  all_goals
    rw [he] at hw
    cases hw
  · exact inv_accept h (canRun_issue h)
  · exact inv_accept h (fun _ hcheck => by cases hcheck)

/-- Settles O34: a turn of the block, the acceptance of a word and a reset each keep the invariant, and no other step touches
what it speaks of. -/
theorem everyStepKeepsTheInvariant : Obligations.EveryStepKeepsTheInvariant := by
  intro s t h hstep
  obtain ⟨-, ⟨-, rfl⟩ | ⟨op, rest, -, hop⟩⟩ := step_cases hstep
  · exact inv_blockTurn h
  · have hrest : State.inv { s with host := rest } = true := h
    obtain ⟨-, rfl⟩ | ⟨-, rfl⟩ | ⟨w, -, hw⟩ | ⟨-, reads, rfl⟩ := hop
    · exact inv_blockTurn hrest
    · rfl
    · exact inv_writeCmd hrest hw
    · exact h

end Sys2Proof.Machine
end

section
/-! SUPPORT. What every step does to the trace, the levels of the pins and the configuration (10_state.md R22, R34, R36). -/

namespace Sys2Proof.Machine

theorem levelAfter_append (p : OutPin) (v : Bool) (a b : List Event) :
    levelAfter p v (a ++ b) = levelAfter p (levelAfter p v a) b := by
  induction a generalizing v with
  | nil => rfl
  | cons e a ih => cases e <;> exact ih _

/-- From `s` to `t` the trace has only grown, each output pin has the level that the new events drive it to, and the
configuration is the same. -/
def Follows (s t : State) : Prop :=
  t.cfg = s.cfg ∧ ∃ evs, t.trace = s.trace ++ evs ∧ ∀ p, t.level p = levelAfter p (s.level p) evs

/-- An operation that touches neither pins nor trace nor configuration. -/
theorem Follows.of_eq {s t : State} (hcfg : t.cfg = s.cfg) (htrace : t.trace = s.trace)
    (hlevel : ∀ p, t.level p = s.level p) : Follows s t :=
  ⟨hcfg, [], by rw [htrace, List.append_nil], hlevel⟩

theorem Follows.refl (s : State) : Follows s s := .of_eq rfl rfl fun _ => rfl

theorem Follows.trans {s t u : State} (h1 : Follows s t) (h2 : Follows t u) : Follows s u := by
  obtain ⟨c1, e1, t1, l1⟩ := h1
  obtain ⟨c2, e2, t2, l2⟩ := h2
  refine ⟨c2.trans c1, e1 ++ e2, by rw [t2, t1, List.append_assoc], fun p => ?_⟩
  rw [l2, l1, levelAfter_append]

theorem follows_pinSet (q : OutPin) (s : State) : Follows s (pinSet q s) :=
  ⟨pinSet_cfg q s, [.set q], pinSet_trace q s, fun p => by cases p <;> cases q <;> rfl⟩

theorem follows_pinClear (q : OutPin) (s : State) : Follows s (pinClear q s) :=
  ⟨pinClear_cfg q s, [.clear q], pinClear_trace q s, fun p => by cases p <;> cases q <;> rfl⟩

/-- An event that drives no pin, appended alone. -/
theorem follows_emit {e : Event} (h : ∀ p v, levelAfter p v [e] = v) (s : State) : Follows s (emit e s) :=
  ⟨rfl, [e], rfl, fun p => (h p (s.level p)).symm⟩

theorem follows_faultEntry (c : FaultCode) (w : Word) (s : State) : Follows s (faultEntry c w s) := by
  obtain ⟨-, -, -, hcs, hsck, hmosi, -, -, -, -, hcfg, -, -, -, -, htrace⟩ := faultEntry_effect c w s
  refine ⟨hcfg, _, by rw [htrace, List.append_assoc, List.append_assoc], fun p => ?_⟩
  cases p <;> cases h1 : s.sck <;> cases h2 : s.csN <;> simp [State.level, hcs, hsck, hmosi, h1, h2, levelAfter]

theorem follows_carryOut (w : Word) (p : Prim) (s : State) : Follows s (carryOut w p s) := by
  cases p with
  | set q => exact follows_pinSet q s
  | clear q => exact follows_pinClear q s
  | drive =>
    simp only [carryOut, driveMosi]
    split
    · exact follows_pinSet .mosi s
    · exact follows_pinClear .mosi s
  | sample => exact ⟨rfl, [.read (s.misoAt 0)], rfl, fun p => by cases p <;> rfl⟩
  | delay d => exact follows_emit (fun _ _ => rfl) s
  | raise c => exact follows_faultEntry c w s

theorem follows_assign (a : Assign) (s : State) : Follows s (assign a s) := by
  cases a <;> exact .of_eq rfl rfl fun p => by cases p <;> rfl

theorem follows_settle (w : Word) (k : List Op) (s : State) : Follows s (settle w k s) := by
  induction k generalizing s with
  | nil => exact ⟨rfl, [.done w], rfl, fun p => by cases p <;> rfl⟩
  | cons o k ih =>
    cases o with
    | act p => exact .of_eq rfl rfl fun p => by cases p <;> rfl
    | let_ a => exact (follows_assign a s).trans (ih (assign a s))
    | pollTest =>
      rw [settle]
      split
      · split <;> exact .of_eq rfl rfl fun p => by cases p <;> rfl
      · refine Follows.trans ?_ (ih _)
        exact .of_eq rfl rfl fun p => by cases p <;> rfl

theorem follows_advance (w : Word) (k : List Op) (s : State) : Follows s (advance w k s) := by
  match k with
  | [] | .let_ _ :: _ | .pollTest :: _ => exact follows_settle w _ s
  | .act p :: rest =>
    obtain hp | ⟨c, rfl⟩ := straight_or_raise p
    · rw [advance_of_straight w p rest s hp]
      exact (follows_carryOut w p s).trans (follows_settle w rest _)
    · exact follows_faultEntry c w s

theorem follows_blockTurn (s : State) : Follows s (blockTurn s) := by
  by_cases hf : s.fc = .none
  · cases hs : s.seq with
    | idle =>
      rw [blockTurn_of_idle hs]
      exact .refl s
    | run w k =>
      rw [blockTurn_of_running hf hs]
      exact follows_advance w k s
  · rw [blockTurn_of_fault hf]
    exact .refl s

theorem follows_accept (w : Word) (check : Option FaultCode) (k : List Op) (s : State) :
    Follows s (accept w check k s) := by
  have hissue : Follows s (issue w k s) := ⟨rfl, [.issue w], rfl, fun p => by cases p <;> rfl⟩
  obtain ⟨-, ha⟩ | ⟨-, ha⟩ | ⟨-, c, -, ha⟩ | ⟨-, -, ha⟩ := accept_cases w check k s
  all_goals rw [ha]
  · exact .refl s
  · exact follows_faultEntry .overrun w s
  · exact hissue.trans (follows_faultEntry c w _)
  · exact hissue.trans (follows_settle w k _)

theorem follows_writeCmd {w : Word} {s t : State} (h : writeCmd w s = .next t) : Follows s t := by
  obtain ⟨i, -, he⟩ | ⟨-, he⟩ := writeCmd_eq w s
  all_goals
    rw [he] at h
    cases h
    exact follows_accept _ _ _ s

/-- A reset drives all three pins, whatever their levels were (R210). -/
theorem follows_doReset (s : State) : Follows s (doReset s) :=
  ⟨rfl, resetEvents, rfl, fun p => by cases p <;> rfl⟩

/-- Every step, of the block or of the host, makes the trace grow by the events that drive the pins. -/
theorem follows_step {s t : State} (h : step s = .next t) : Follows s t := by
  obtain ⟨-, ⟨-, rfl⟩ | ⟨op, rest, -, hop⟩⟩ := step_cases h
  · exact follows_blockTurn s
  · have htaken : Follows s { s with host := rest } := .of_eq rfl rfl fun p => by cases p <;> rfl
    refine htaken.trans ?_
    obtain ⟨-, rfl⟩ | ⟨-, rfl⟩ | ⟨w, -, hw⟩ | ⟨-, reads, rfl⟩ := hop
    · exact follows_blockTurn _
    · exact follows_doReset _
    · exact follows_writeCmd hw
    · exact .of_eq rfl rfl fun p => by cases p <;> rfl

/-- Settles O36: the levels that the new events drive, after those that the old trace drove, are the levels after the whole
trace. -/
theorem levelsAreThoseLastDriven : Obligations.LevelsAreThoseLastDriven := by
  intro s t h hstep p v
  obtain ⟨-, evs, htrace, hlevel⟩ := follows_step hstep
  rw [htrace, levelAfter_append, h p v, hlevel p]

/-- Settles O37: every step's trace is the old one and its events. -/
theorem traceOnlyGrows : Obligations.TraceOnlyGrows := by
  intro s t hstep
  obtain ⟨-, evs, htrace, -⟩ := follows_step hstep
  exact ⟨evs, htrace⟩

/-- Settles O38: no operation of a step writes the configuration. -/
theorem configurationIsFixed : Obligations.ConfigurationIsFixed :=
  fun _ _ hstep => (follows_step hstep).1

end Sys2Proof.Machine
end

section
/-! SUPPORT. Steps while the host pauses (10_state.md R25, R40), and the registers that a completion writes (R24, R31). -/

namespace Sys2Proof.Machine

/-! ### Steps while the host pauses (R25, R40) -/

/-- The state with the host's coming turns set. -/
def State.withHost (s : State) (h : List HostOp) : State := { s with host := h }

theorem carryOut_withHost (w : Word) (p : Prim) (s : State) (h : List HostOp) :
    carryOut w p (s.withHost h) = (carryOut w p s).withHost h := by
  cases p with
  | set q | clear q => cases q <;> rfl
  | drive =>
    cases hb : s.xo.getLsbD s.xb.toNat <;>
      simp [carryOut, driveMosi, State.withHost, hb, pinSet, pinClear, setLevel, emit]
  | sample | delay d => rfl
  | raise c =>
    cases hk : s.sck <;> cases hc : s.csN <;>
      simp [carryOut, faultEntry, State.withHost, hk, hc, pinSet, pinClear, setLevel, emit, forgetXfer, forgetPoll]

theorem settle_withHost (w : Word) (k : List Op) (s : State) (h : List HostOp) :
    settle w k (s.withHost h) = (settle w k s).withHost h := by
  induction k generalizing s with
  | nil => rfl
  | cons o k ih =>
    cases o with
    | act p => rfl
    | let_ a =>
      have ha : assign a (s.withHost h) = (assign a s).withHost h := by cases a <;> rfl
      rw [settle, ha, ih, settle]
    | pollTest =>
      cases hbusy : busyFlag s.st with
      | false =>
        rw [settle_pollTest_done w k s hbusy, settle_pollTest_done w k (s.withHost h) hbusy]
        exact ih (forgetPoll { s with nb := s.nb + 1, ret := s.st })
      | true =>
        cases hlimit : limitReached s.cfg (s.nb + 1) with
        | false =>
          rw [settle_pollTest_round w k s hbusy hlimit, settle_pollTest_round w k (s.withHost h) hbusy hlimit]
          rfl
        | true =>
          rw [settle_pollTest_timeout w k s hbusy hlimit, settle_pollTest_timeout w k (s.withHost h) hbusy hlimit]
          rfl

theorem advance_withHost (w : Word) (k : List Op) (s : State) (h : List HostOp) :
    advance w k (s.withHost h) = (advance w k s).withHost h := by
  match k with
  | [] | .let_ _ :: _ | .pollTest :: _ => exact settle_withHost w _ s h
  | .act p :: rest =>
    obtain hp | ⟨c, rfl⟩ := straight_or_raise p
    · rw [advance_of_straight w p rest s hp, advance_of_straight w p rest _ hp, carryOut_withHost, settle_withHost]
    · exact carryOut_withHost w (.raise c) s h

/-- The block's step neither reads nor writes the host's turns. -/
theorem blockTurn_withHost (s : State) (h : List HostOp) : blockTurn (s.withHost h) = (blockTurn s).withHost h := by
  by_cases hf : s.fc = .none
  · cases hs : s.seq with
    | idle => rw [blockTurn_of_idle hs, blockTurn_of_idle (s := s.withHost h) hs]
    | run w k =>
      rw [blockTurn_of_running hf hs, blockTurn_of_running (s := s.withHost h) hf hs, advance_withHost]
  · rw [blockTurn_of_fault hf, blockTurn_of_fault (s := s.withHost h) hf]

theorem blockTurn_host (s : State) : (blockTurn s).host = s.host := by
  have h := congrArg State.host (blockTurn_withHost s s.host)
  exact h

theorem turns_withHost (n : Nat) (s : State) (h : List HostOp) : turns n (s.withHost h) = (turns n s).withHost h := by
  induction n generalizing s with
  | zero => rfl
  | succ n ih => rw [turns, blockTurn_withHost, ih, turns]

theorem step_of_noTurns {s : State} (hwf : s.cfg.wf = true) (hhost : s.host = []) : step s = .next (blockTurn s) := by
  simp [step, cycle, hwf, hhost]

theorem step_of_pause {s : State} {rest : List HostOp} (hwf : s.cfg.wf = true) (hhost : s.host = .pause :: rest) :
    step s = .next ((blockTurn s).withHost rest) := by
  rw [← blockTurn_withHost]
  simp [step, cycle, hwf, hhost, hostTurn, State.withHost]

theorem run_succ_of_step {s t : State} (n : Nat) (h : step s = .next t) :
    Host.Core.run core (n + 1) s = Host.Core.run core n t := by
  have hcore : core.step s = .next t := h
  simp only [Host.Core.run, hcore]

theorem run_of_noTurns (n : Nat) {s : State} (hwf : s.cfg.wf = true) (hhost : s.host = []) :
    Host.Core.run core n s = .next (turns n s) := by
  induction n generalizing s with
  | zero => rfl
  | succ n ih =>
    rw [run_succ_of_step n (step_of_noTurns hwf hhost), turns]
    exact ih (by rwa [(follows_blockTurn s).1]) ((blockTurn_host s).trans hhost)

theorem run_of_pauses (n : Nat) {s : State} {rest : List HostOp} (hwf : s.cfg.wf = true)
    (hhost : s.host = List.replicate n .pause ++ rest) :
    Host.Core.run core n s = .next ((turns n s).withHost rest) := by
  induction n generalizing s with
  | zero =>
    obtain rfl : s.host = rest := hhost
    rfl
  | succ n ih =>
    have hwf' : (blockTurn s).cfg.wf = true := by rwa [(follows_blockTurn s).1]
    have hhead : s.host = .pause :: (List.replicate n .pause ++ rest) := hhost
    rw [run_succ_of_step n (step_of_pause hwf hhead)]
    have hrun := ih (s := (blockTurn s).withHost (List.replicate n .pause ++ rest)) hwf' rfl
    rw [turns_withHost] at hrun
    exact hrun

/-- Settles O9: a step with no turn of the host, or with a pause, is the block's, and the block's step does not see the host's
list. -/
theorem pausingHostLeavesTheBlockToRun : Obligations.PausingHostLeavesTheBlockToRun := by
  intro n s hwf
  refine ⟨run_of_noTurns n hwf, fun rest hhost => ?_⟩
  exact ⟨_, run_of_pauses n hwf hhost, rfl, fun _ => rfl⟩

/-! ### Registers written on completion (R24, R31) -/

theorem SameRegisters.refl (s : State) : SameRegisters s s := ⟨rfl, rfl, rfl, rfl⟩

theorem SameRegisters.trans {s t u : State} (h1 : SameRegisters s t) (h2 : SameRegisters t u) : SameRegisters s u := by
  simp_all [SameRegisters]

/-- The assignment `a` that ends a command has taken `s` to `t`, where the block is ready: it wrote `RESULT`, `EI` or `LI` and
no other register. -/
def EndsWith (a : Assign) (s t : State) : Prop :=
  t.seq = .idle ∧ t.fc = s.fc ∧
    (a = .result ∧ t.rv = true ∧ t.ei = s.ei ∧ t.li = s.li
      ∨ a = .setEi ∧ t.rb = s.rb ∧ t.rv = s.rv ∧ t.ei = true ∧ t.li = s.li
      ∨ a = .setLi ∧ t.rb = s.rb ∧ t.rv = s.rv ∧ t.ei = s.ei ∧ t.li = true)

theorem EndsWith.of_sameRegisters {a : Assign} {s t u : State} (h : SameRegisters s t) (hfc : t.fc = s.fc)
    (he : EndsWith a t u) : EndsWith a s u := by
  obtain ⟨hrb, hrv, hei, hli⟩ := h
  rwa [EndsWith, ← hrb, ← hrv, ← hei, ← hli, ← hfc]

/-- Settling changes no register, unless it completes the command with the assignment that ends it. -/
theorem settle_sameRegisters_or_endsWith (w : Word) (k : List Op) (s : State) (h : endsOnly k = true) :
    SameRegisters s (settle w k s) ∨ ∃ a, .let_ a ∈ k ∧ EndsWith a s (settle w k s) := by
  induction k generalizing s with
  | nil => exact .inl (.refl s)
  | cons o k ih =>
    have hlater (t : State) (hregs : SameRegisters s t) (hfc : t.fc = s.fc) :
        SameRegisters s (settle w k t) ∨ ∃ a, .let_ a ∈ o :: k ∧ EndsWith a s (settle w k t) := by
      obtain hsame | ⟨a, hmem, hends⟩ := ih t (endsOnly_tail h)
      · exact .inl (hregs.trans hsame)
      · exact .inr ⟨a, List.mem_cons_of_mem o hmem, hends.of_sameRegisters hregs hfc⟩
    cases o with
    | act p => exact .inl (.refl s)
    | pollTest =>
      rw [settle]
      split
      · split <;> exact .inl (.refl s)
      · exact hlater _ (.refl s) rfl
    | let_ a =>
      cases a with
      | result | setEi | setLi =>
        obtain rfl : k = [] := List.isEmpty_iff.mp h
        exact .inr ⟨_, List.mem_singleton_self _, rfl, rfl, by simp [settle, assign]⟩
      | _ => exact hlater _ ⟨rfl, rfl, rfl, rfl⟩ rfl

theorem sameRegisters_faultEntry (c : FaultCode) (w : Word) (s : State) : SameRegisters s (faultEntry c w s) := by
  obtain ⟨-, -, -, -, -, -, hei, hli, hrb, hrv, -⟩ := faultEntry_effect c w s
  exact ⟨hrb, hrv, hei, hli⟩

/-- Every command reaches its first primitive; DELAY with the selector 3 has no pseudocode. -/
theorem bsy_settle_codeOf (w : Word) (i : Instr) (c : Config) (s : State) :
    codeOf i c = [] ∨ (settle w (codeOf i c) s).bsy = true := by
  cases i with
  | delay sel =>
    simp only [codeOf]
    cases delayOf sel
    · exact .inl rfl
    · exact .inr rfl
  | busyrd | busywait | wrcmd v | wrdata v =>
    refine .inr ?_
    simp [codeOf, wrcmdCode, wrdataCode, lcdByteCode, busyrdCode, busywaitCode, busyReadCode, portBWrite, wrregCode,
      beginCode, settle, State.bsy]
  | _ => exact .inr rfl

/-- A command reaches its first primitive before it writes a register. -/
theorem sameRegisters_settle_codeOf (w : Word) (i : Instr) (c : Config) (s : State) :
    SameRegisters s (settle w (codeOf i c) s) := by
  obtain hsame | ⟨a, hmem, hidle, -⟩ := settle_sameRegisters_or_endsWith w _ s (endsOnly_codeOf i c)
  · exact hsame
  · obtain hnil | hbsy := bsy_settle_codeOf w i c s
    · simp [hnil] at hmem
    · simp [State.bsy, hidle] at hbsy

/-- The acceptance of a word changes no register (R31). -/
theorem sameRegisters_writeCmd {w : Word} {s t : State} (h : writeCmd w s = .next t) : SameRegisters s t := by
  have haccept (w : Word) (check : Option FaultCode) (k : List Op)
      (hk : check = none → SameRegisters s (settle w k (issue w k s))) : SameRegisters s (accept w check k s) := by
    obtain ⟨-, ha⟩ | ⟨-, ha⟩ | ⟨-, c, -, ha⟩ | ⟨-, hcheck, ha⟩ := accept_cases w check k s
    all_goals rw [ha]
    · exact .refl s
    · exact sameRegisters_faultEntry .overrun w s
    · exact sameRegisters_faultEntry c w _
    · exact hk hcheck
  obtain ⟨i, -, he⟩ | ⟨-, he⟩ := writeCmd_eq w s
  all_goals
    rw [he] at h
    cases h
  · exact haccept _ _ _ fun _ => sameRegisters_settle_codeOf _ i s.cfg _
  · exact haccept _ _ _ fun hcheck => by cases hcheck

theorem blockTurn_sameRegisters_or_endsWith {s : State} (h : s.inv = true) :
    SameRegisters s (blockTurn s)
      ∨ ∃ w k a, s.seq = .run w k ∧ .let_ a ∈ k ∧ s.fc = .none ∧ EndsWith a s (blockTurn s) := by
  cases hseq : s.seq with
  | idle =>
    rw [blockTurn_of_idle hseq]
    exact .inl (.refl s)
  | run w k =>
    have hrun := canRun_of_inv h hseq
    obtain ⟨hfc, p, rest, rfl⟩ := runningOk_atPrimitive (runningOk_of_inv h hseq)
    rw [blockTurn_of_running hfc hseq]
    obtain hp | ⟨c, rfl⟩ := straight_or_raise p
    · obtain ⟨hregs, hfc', -⟩ := carryOut_frame w p s hp
      rw [advance_of_straight w p rest s hp]
      obtain hsame | ⟨a, hmem, hends⟩ := settle_sameRegisters_or_endsWith w rest (carryOut w p s) (endsOnly_tail hrun.ends)
      · exact .inl (hregs.trans hsame)
      · exact .inr ⟨w, _, a, rfl, List.mem_cons_of_mem _ hmem, hfc, hends.of_sameRegisters hregs hfc'⟩
    · exact .inl (sameRegisters_faultEntry c w s)

/-- A step that is no reset changes no register, unless it completes a running command with the assignment that ends it. -/
theorem step_sameRegisters_or_endsWith {s t : State} (h : s.inv = true) (hstep : step s = .next t)
    (hreset : s.host.head? ≠ some .reset) :
    SameRegisters s t ∨ ∃ w k a, s.seq = .run w k ∧ .let_ a ∈ k ∧ s.fc = .none ∧ EndsWith a s t := by
  obtain ⟨-, ⟨-, rfl⟩ | ⟨op, rest, hhost, hop⟩⟩ := step_cases hstep
  · exact blockTurn_sameRegisters_or_endsWith h
  · obtain ⟨-, rfl⟩ | ⟨rfl, -⟩ | ⟨w, -, hw⟩ | ⟨-, reads, rfl⟩ := hop
    · exact blockTurn_sameRegisters_or_endsWith (s := { s with host := rest }) h
    · simp [hhost] at hreset
    · exact .inl (sameRegisters_writeCmd (s := { s with host := rest }) hw)
    · exact .inl (.refl s)

/-- The command whose pseudocode writes `RESULT`, `EI` or `LI` is one whose rule says so. -/
theorem ownKind_of_mem {i : Instr} {finite ei : Bool} {k : List Op} (h : ownKind i finite ei k = true) :
    (.let_ .result ∈ k → Instr.givesResult i = true) ∧ (.let_ .setEi ∈ k → i = .expinit)
      ∧ (.let_ .setLi ∈ k → i = .lcdinit) := by
  simp only [ownKind, Bool.and_eq_true, Bool.or_eq_true, Bool.not_eq_true', List.contains_eq_mem,
    decide_eq_false_iff_not, beq_iff_eq] at h
  tauto

theorem givesResult_cases {i : Instr} (h : Instr.givesResult i = true) :
    i = .getbtn ∨ i = .busyrd ∨ i = .busywait ∨ (∃ d, i = .xfer d) ∨ ∃ a, i = .rdreg a := by
  cases i <;> simp_all [Instr.givesResult]

/-- Settles O40: of the assignments that end a command only `result` changes `RESULT` or `RV`. -/
theorem resultIsWrittenOnlyOnCompletion : Obligations.ResultIsWrittenOnlyOnCompletion := by
  intro s t h hstep hreset hchanged
  obtain ⟨hrb, hrv, -⟩ | ⟨w, k, a, hseq, hmem, hfc, hidle, hfc', hends⟩ := step_sameRegisters_or_endsWith h hstep hreset
  · simp [hrb, hrv] at hchanged
  · obtain ⟨rfl, hrv, -⟩ | ⟨-, hrb, hrv, -⟩ | ⟨-, hrb, hrv, -⟩ := hends
    · obtain ⟨i, hd, hown⟩ := (canRun_of_inv h hseq).kind
      refine ⟨hrv, hidle, hfc'.trans hfc, w, k, hseq, ?_⟩
      simpa [hd] using givesResult_cases ((ownKind_of_mem hown).1 hmem)
    · simp [hrb, hrv] at hchanged
    · simp [hrb, hrv] at hchanged

/-- Settles O41: of the assignments that end a command only `setEi` changes `EI` and only `setLi` changes `LI`, and both set
their flag. -/
theorem initFlagsAreSetOnCompletionOnly : Obligations.InitFlagsAreSetOnCompletionOnly := by
  intro s t h hstep hreset
  obtain ⟨-, -, hei, hli⟩ | ⟨w, k, a, hseq, hmem, hfc, hidle, hfc', hends⟩ := step_sameRegisters_or_endsWith h hstep hreset
  · simp_all
  · have hready : t.ready := ⟨hfc'.trans hfc, hidle⟩
    obtain ⟨i, hd, hown⟩ := (canRun_of_inv h hseq).kind
    obtain ⟨-, hexp, hlcd⟩ := ownKind_of_mem hown
    obtain ⟨-, -, hei, hli⟩ | ⟨rfl, -, -, hei, hli⟩ | ⟨rfl, -, -, hei, hli⟩ := hends
    · simp_all
    · obtain rfl := hexp hmem
      refine ⟨fun _ => hei, fun hs => hli.trans hs, fun _ _ => ⟨hready, w, k, hseq, hd⟩, fun hs ht => ?_⟩
      simp [hli, hs] at ht
    · obtain rfl := hlcd hmem
      refine ⟨fun hs => hei.trans hs, fun _ => hli, fun hs ht => ?_, fun _ _ => ⟨hready, w, k, hseq, hd⟩⟩
      simp [hei, hs] at ht

end Sys2Proof.Machine
end

section
/-! SUPPORT. The frame view of whole and of cut windows (10_state.md R35), and the host port (R28, R29, R41, R43). -/

namespace Sys2Proof.Machine

/-! ### The reader of the frame view (R35, R85) -/

/-- The reader after some events. -/
def FrameReader.readAll (v : FrameReader) (t : List Event) : FrameReader := t.foldl FrameReader.read v

theorem frames_eq (t : List Event) : frames t = (FrameReader.start.readAll t).closed := rfl

theorem FrameReader.readAll_append (v : FrameReader) (a b : List Event) :
    v.readAll (a ++ b) = (v.readAll a).readAll b := List.foldl_append

/-- The reader between windows, with the windows `fs` closed and the levels `o` and `i` last seen on the data pins. -/
def FrameReader.between (fs : List Frame) (o i : Bool) : FrameReader := ⟨fs, none, 0, 0, o, i, 0⟩

/-- The reader inside a window whose exchanges so far are `f`, with `n` bit cells of a byte seen, whose bits so far make `out`
and `inp`. -/
def FrameReader.inside (fs : List Frame) (f : Frame) (n : Nat) (out inp : Byte) (o i : Bool) : FrameReader :=
  ⟨fs, some f, out, inp, o, i, n⟩

section
variable (fs : List Frame) (f : Frame) (o i : Bool)

/-- A bit cell before the eighth adds a bit to each side of the byte under way. -/
theorem readAll_cellEvents {n : Nat} (hn : n ≠ 7) (out inp : Byte) (o' i' : Bool) :
    (FrameReader.inside fs f n out inp o i).readAll (cellEvents o' i')
      = .inside fs f (n + 1) (shiftIn out o') (shiftIn inp i') o' i' := by
  cases o' <;> simp [FrameReader.readAll, FrameReader.inside, cellEvents, FrameReader.read, FrameReader.cell, hn]

/-- The eighth bit cell completes an exchange. -/
theorem readAll_lastCellEvents (out inp : Byte) (o' i' : Bool) :
    (FrameReader.inside fs f 7 out inp o i).readAll (cellEvents o' i')
      = .inside fs (f ++ [(shiftIn out o', shiftIn inp i')]) 0 0 0 o' i' := by
  cases o' <;> rfl

/-- The bits of a byte, shifted in from bit 7 down, make the byte. -/
theorem byteOfDraws_bitsOf : ∀ b : Byte, byteOfDraws (bitsOf b) = b := by decide

/-- The 32 events of an exchange add it to the window. -/
theorem readAll_exchangeEvents (x : Exchange) :
    ∃ o' i', (FrameReader.inside fs f 0 0 0 o i).readAll (exchangeEvents x) = .inside fs (f ++ [x]) 0 0 0 o' i' := by
  obtain ⟨d, r⟩ := x
  have hd := byteOfDraws_bitsOf d
  have hr := byteOfDraws_bitsOf r
  simp only [byteOfDraws, bitsOf, List.foldl_cons, List.foldl_nil] at hd hr
  refine ⟨d.getLsbD 0, r.getLsbD 0, ?_⟩
  simp only [exchangeEvents, bitsOf, List.zip_cons_cons, List.zip_nil_left, List.flatMap_cons, List.flatMap_nil,
    List.append_nil, FrameReader.readAll_append, readAll_cellEvents, readAll_lastCellEvents, ne_eq, Nat.reduceAdd,
    Nat.reduceEqDiff, OfNat.zero_ne_ofNat, OfNat.one_ne_ofNat, not_false_eq_true, hd, hr]

theorem readAll_exchanges (g : Frame) :
    ∃ o' i', (FrameReader.inside fs f 0 0 0 o i).readAll (g.flatMap exchangeEvents)
      = .inside fs (f ++ g) 0 0 0 o' i' := by
  induction g generalizing f o i with
  | nil => exact ⟨o, i, by simp [FrameReader.readAll]⟩
  | cons x g ih =>
    obtain ⟨o1, i1, hx⟩ := readAll_exchangeEvents fs f o i x
    obtain ⟨o2, i2, hg⟩ := ih (f ++ [x]) o1 i1
    exact ⟨o2, i2, by rw [List.flatMap_cons, FrameReader.readAll_append, hx, hg, List.append_assoc]; rfl⟩

/-- The events that open a window and those of its exchanges so far. -/
theorem readAll_openWindow :
    ∃ o' i', (FrameReader.between fs o i).readAll ([.clear .cs] ++ f.flatMap exchangeEvents)
      = .inside fs f 0 0 0 o' i' := by
  rw [FrameReader.readAll_append]
  exact readAll_exchanges fs [] o i f

/-- The events of a whole window add it to the windows closed. -/
theorem readAll_frameEvents :
    ∃ o' i', (FrameReader.between fs o i).readAll (frameEvents f) = .between (fs ++ [f]) o' i' := by
  obtain ⟨o', i', hopen⟩ := readAll_openWindow fs f o i
  refine ⟨o', i', ?_⟩
  rw [frameEvents, FrameReader.readAll_append, hopen]
  rfl

theorem readAll_framesEvents (gs : List Frame) :
    ∃ o' i', (FrameReader.between fs o i).readAll (framesEvents gs) = .between (fs ++ gs) o' i' := by
  induction gs generalizing fs o i with
  | nil => exact ⟨o, i, by simp [framesEvents, FrameReader.readAll]⟩
  | cons g gs ih =>
    obtain ⟨o1, i1, hg⟩ := readAll_frameEvents fs g o i
    obtain ⟨o2, i2, hgs⟩ := ih (fs ++ [g]) o1 i1
    refine ⟨o2, i2, ?_⟩
    rw [framesEvents] at hgs
    rw [framesEvents, List.flatMap_cons, FrameReader.readAll_append, hg, hgs, List.append_assoc]
    rfl

end

/-- Settles O42: each whole window read adds itself to the windows closed. -/
theorem frameViewLosesNothing : Obligations.FrameViewLosesNothing := by
  intro fs
  obtain ⟨o, i, h⟩ := readAll_framesEvents [] false false fs
  exact congrArg FrameReader.closed h

/-! ### A byte that is cut (R35, R191, R210) -/

/-- The events of a bit cell: the data pins and the clock. -/
def Event.inCell : Event → Bool
  | .set .mosi | .clear .mosi | .read _ | .set .sck | .clear .sck => true
  | _ => false

/-- Events of bit cells in which the clock does not fall for the eighth time complete no exchange. -/
theorem readAll_inCell (evs : List Event) (v : FrameReader) (f : Frame) (hcell : ∀ e ∈ evs, e.inCell = true)
    (hwindow : v.window = some f) (hfalls : v.cells + evs.count (.clear .sck) ≤ 7) :
    (v.readAll evs).closed = v.closed ∧ (v.readAll evs).window = some f := by
  induction evs generalizing v with
  | nil => exact ⟨rfl, hwindow⟩
  | cons e evs ih =>
    have hrest := fun e he => hcell e (List.mem_cons_of_mem _ he)
    have he : e.inCell = true := hcell e List.mem_cons_self
    change ((v.read e).readAll evs).closed = v.closed ∧ ((v.read e).readAll evs).window = some f
    match e, he with
    | .set .mosi, _ | .clear .mosi, _ | .read _, _ | .set .sck, _ =>
      simp only [List.count_cons_of_ne, ne_eq, reduceCtorEq, not_false_eq_true, Event.clear.injEq] at hfalls
      exact ih _ hrest hwindow hfalls
    | .clear .sck, _ =>
      rw [List.count_cons_self] at hfalls
      have hread : v.read (.clear .sck)
          = { v with out := shiftIn v.out v.mosi, inp := shiftIn v.inp v.miso, cells := v.cells + 1 } := by
        have hne : v.cells ≠ 7 := by omega
        simp [FrameReader.read, FrameReader.cell, hwindow, hne]
      rw [hread]
      exact ih _ hrest hwindow (by simp only; omega)

theorem inCell_of_mem_exchangeEvents {x : Exchange} {e : Event} (h : e ∈ exchangeEvents x) : e.inCell = true := by
  obtain ⟨⟨o, i⟩, -, he⟩ := List.mem_flatMap.mp h
  cases o <;> simp only [cellEvents, List.mem_cons, List.not_mem_nil, or_false] at he <;>
    obtain rfl | rfl | rfl | rfl := he <;> rfl

/-- The clock falls once in a bit cell, so it has fallen seven times before the last event of an exchange. -/
theorem count_fall_take_exchangeEvents (x : Exchange) : ((exchangeEvents x).take 31).count (.clear .sck) = 7 := by
  have hcell (o i : Bool) : (cellEvents o i).count (.clear .sck) = 1 := by cases o <;> rfl
  have hall : (exchangeEvents x).count (.clear .sck) = 8 := by
    simp [exchangeEvents, hcell, bitsOf]
  have hlast : (exchangeEvents x).drop 31 = [.clear .sck] := rfl
  rw [← List.take_append_drop 31 (exchangeEvents x), List.count_append, hlast, List.count_singleton_self] at hall
  omega

/-- The first 31 events of an exchange leave the window as it was. -/
theorem readAll_take_exchangeEvents (v : FrameReader) (f : Frame) (x : Exchange) {n : Nat} (hn : n < 32)
    (hwindow : v.window = some f) (hcells : v.cells = 0) :
    (v.readAll ((exchangeEvents x).take n)).closed = v.closed
      ∧ (v.readAll ((exchangeEvents x).take n)).window = some f := by
  refine readAll_inCell _ v f (fun e he => inCell_of_mem_exchangeEvents (List.mem_of_mem_take he)) hwindow ?_
  have hprefix : ((exchangeEvents x).take n).Sublist ((exchangeEvents x).take 31) :=
    (List.take_prefix_take_left (by omega)).sublist
  have hle := hprefix.count_le (.clear .sck)
  rw [count_fall_take_exchangeEvents] at hle
  omega

/-- The events of a fault or a reset cut the byte under way and close the window as it was. -/
theorem closed_readAll_cutTail {v : FrameReader} {f : Frame} {c : FaultCode} {w : Word} {tail : List Event}
    (hwindow : v.window = some f)
    (htail : tail = [.fault c w, .clear .sck, .set .cs] ∨ tail = [.fault c w, .set .cs] ∨ tail = resetEvents) :
    (v.readAll tail).closed = v.closed ++ [f] := by
  obtain rfl | rfl | rfl := htail
  all_goals
    simp [FrameReader.readAll, resetEvents, FrameReader.read, FrameReader.cut, FrameReader.cell, hwindow]

/-- Settles O46: up to its 31st event a byte leaves the reader in its window, and the fault or the reset closes that window
without the byte. -/
theorem cutBytesAreLeftOutOfTheFrameView : Obligations.CutBytesAreLeftOutOfTheFrameView := by
  intro fs f x n c w tail hn htail
  obtain ⟨o1, i1, hwhole⟩ := readAll_framesEvents [] false false fs
  obtain ⟨o2, i2, hopen⟩ := readAll_openWindow fs f o1 i1
  obtain ⟨hclosed, hwindow⟩ := readAll_take_exchangeEvents (.inside fs f 0 0 0 o2 i2) f x hn rfl rfl
  have hbyte : FrameReader.start.readAll
      (framesEvents fs ++ [.clear .cs] ++ f.flatMap exchangeEvents ++ (exchangeEvents x).take n)
        = (FrameReader.inside fs f 0 0 0 o2 i2).readAll ((exchangeEvents x).take n) := by
    have hstart : FrameReader.start.readAll (framesEvents fs) = .between fs o1 i1 := hwhole
    rw [FrameReader.readAll_append, List.append_assoc, FrameReader.readAll_append, hstart, hopen]
  rw [frames_eq, FrameReader.readAll_append, hbyte, closed_readAll_cutTail hwindow htail, hclosed]
  rfl

/-! ### The host port (R28, R29, R41, R43) -/

/-- Settles O8: the step takes the write off the host's list and does what `writeCmd` does, which is `exec` of the decoded
command. -/
theorem stepRunsTheWrittenCommand : Obligations.StepRunsTheWrittenCommand := by
  intro s w i hwf hdecode
  have hcmd (t : State) : writeCmd w t = exec i t := by rw [writeCmd, hdecode]
  have hstep (t : State) (rest : List HostOp) (hwf : t.cfg.wf = true) (hhost : t.host = .write 0x0 32 w :: rest) :
      step t = exec i { t with host := rest } := by
    rw [← hcmd]
    simp [step, cycle, hwf, hhost, hostTurn, hostWrite, cmdOffset]
  refine ⟨fun rest => hstep s rest hwf, ?_⟩
  have hplaced : s.withFetchWord 32 w.toNat = placeCommand w s := by
    rw [State.withFetchWord, Nat.mod_eq_of_lt w.isLt, BitVec.ofNat_toNat, BitVec.setWidth_eq]
  rw [hplaced]
  exact hstep (placeCommand w s) s.host hwf rfl

/-- The bits of `STATUS`, by their places (R29). -/
def State.statusBit (s : State) : Nat → Bool
  | 0 => s.bsy
  | 1 => s.rv
  | 2 => s.ei
  | 3 => s.li
  | 4 => s.flt
  | 5 => s.csa
  | 6 | 7 => false
  | n + 8 => s.fc.code.getLsbD n

theorem getLsbD_status (s : State) (n : Nat) : s.status.getLsbD n = s.statusBit n := by
  simp only [State.status, BitVec.getLsbD_append, BitVec.getLsbD_ofBool]
  match n with
  | 0 | 1 | 2 | 3 | 4 | 5 | 6 | 7 => simp [State.statusBit]
  | n + 8 =>
    by_cases hn : n < 4
    · simp [State.statusBit, hn]
    · simp [State.statusBit, hn, BitVec.getLsbD_of_ge s.fc.code n (by omega)]

theorem extractLsb'_status {s : State} {start len : Nat} {x : BitVec len}
    (h : ∀ n < len, s.statusBit (start + n) = x.getLsbD n) : s.status.extractLsb' start len = x := by
  apply BitVec.eq_of_getLsbD_eq
  intro n hn
  simp [hn, getLsbD_status, h n hn]

theorem bsy_iff (s : State) : s.bsy = true ↔ ∃ w k, s.seq = .run w k := by
  cases h : s.seq <;> simp [State.bsy, h]

/-- Settles O10: each field is the bits of `STATUS` at its place. -/
theorem statusHoldsItsFields : Obligations.StatusHoldsItsFields := by
  refine ⟨fun s => ?_, rfl⟩
  simp only [getLsbD_status]
  refine ⟨bsy_iff s, rfl, rfl, rfl, ?_, rfl, ?_, ?_, ?_, ?_, ?_, fun v => rfl⟩
  · simp [State.statusBit, State.flt]
  · exact extractLsb'_status fun n hn => by interval_cases n <;> rfl
  · exact extractLsb'_status fun n _ => by rw [Nat.add_comm]; rfl
  · refine extractLsb'_status fun n _ => ?_
    rw [show 12 + n = n + 4 + 8 by omega, State.statusBit, BitVec.getLsbD_of_ge _ _ (by omega)]
    simp
  · cases s.fc <;> decide
  · cases s.fc <;> decide

/-- Settles O11: by the tests of offset and width that a read and a write go through. -/
theorem hostPortAnswersItsAccesses : Obligations.HostPortAnswersItsAccesses := by
  intro s v
  refine ⟨rfl, rfl, rfl, fun h => ?_, fun h => ?_, rfl, ?_, fun o ho => ?_, fun o width hw => ?_⟩
  · simp [hostRead, h, cmdOffset, statusOffset, resultOffset, answer, State.resultWord]
  · simp [hostRead, h, cmdOffset, statusOffset, resultOffset]
  · rintro o (rfl | rfl | rfl) <;> rfl
  · have hcmd : o ≠ cmdOffset := by rw [cmdOffset]; omega
    have hstatus : o ≠ statusOffset := by rw [statusOffset]; omega
    have hresult : o ≠ resultOffset := by rw [resultOffset]; omega
    have hfcmd : o ≠ fcmdOffset := by rw [fcmdOffset]; omega
    simp [hostRead, hostWrite, hcmd, hstatus, hresult, hfcmd]
  · simp [hostRead, hostWrite, hw]

end Sys2Proof.Machine
end

section
/-! SUPPORT. No step opens a chip-select window while one is open (20_memory.md R71). -/

namespace Sys2Proof.Machine

/-- From `s` to `t` the trace has only grown, and by no event that opens a chip-select window. -/
def OpensNone (s t : State) : Prop := ∃ evs, t.trace = s.trace ++ evs ∧ .clear .cs ∉ evs

theorem OpensNone.of_trace_eq {s t : State} (h : t.trace = s.trace) : OpensNone s t :=
  ⟨[], by rw [h, List.append_nil], List.not_mem_nil⟩

theorem OpensNone.refl (s : State) : OpensNone s s := .of_trace_eq rfl

theorem OpensNone.trans {s t u : State} (h1 : OpensNone s t) (h2 : OpensNone t u) : OpensNone s u := by
  obtain ⟨e1, t1, n1⟩ := h1
  obtain ⟨e2, t2, n2⟩ := h2
  exact ⟨e1 ++ e2, by rw [t2, t1, List.append_assoc], by simp [n1, n2]⟩

/-- One appended event that is not `Clear(CS)`. -/
theorem OpensNone.of_event {s t : State} {e : Event} (htrace : t.trace = s.trace ++ [e]) (he : e ≠ .clear .cs) :
    OpensNone s t :=
  ⟨[e], htrace, by simpa using he.symm⟩

/-! ### What never opens a window -/

/-- Settling appends at most the command's `Done`. -/
theorem opensNone_settle (w : Word) (k : List Op) (s : State) : OpensNone s (settle w k s) := by
  obtain ⟨-, htrace⟩ | ⟨-, -, htrace⟩ := settle_runs_or_completes w k s
  · exact .of_trace_eq htrace
  · exact .of_event htrace nofun

/-- Fault entry drives chip-select high only (R191). -/
theorem opensNone_faultEntry (c : FaultCode) (w : Word) (s : State) : OpensNone s (faultEntry c w s) := by
  obtain ⟨-, -, -, -, -, -, -, -, -, -, -, -, -, -, -, htrace⟩ := faultEntry_effect c w s
  refine ⟨_, by rw [htrace, List.append_assoc, List.append_assoc], ?_⟩
  cases s.sck <;> cases s.csN <;> simp

theorem opensNone_doReset (s : State) : OpensNone s (doReset s) := ⟨resetEvents, rfl, by decide⟩

/-- The acceptance of a word carries out no primitive of its command (R41). -/
theorem opensNone_accept (w : Word) (check : Option FaultCode) (k : List Op) (s : State) :
    OpensNone s (accept w check k s) := by
  have hissue : OpensNone s (issue w k s) := .of_event (issue_trace w k s) nofun
  obtain ⟨-, ha⟩ | ⟨-, ha⟩ | ⟨-, c, -, ha⟩ | ⟨-, -, ha⟩ := accept_cases w check k s
  all_goals rw [ha]
  · exact .refl s
  · exact opensNone_faultEntry .overrun w s
  · exact hissue.trans (opensNone_faultEntry c w _)
  · exact hissue.trans (opensNone_settle w k _)

theorem opensNone_writeCmd {w : Word} {s t : State} (h : writeCmd w s = .next t) : OpensNone s t := by
  obtain ⟨i, -, he⟩ | ⟨-, he⟩ := writeCmd_eq w s
  all_goals
    rw [he] at h
    cases h
    exact opensNone_accept _ _ _ s

/-! ### The block's step while a window is open -/

/-- Inside a window, disciplined pseudocode does not stand at the primitive that opens one. -/
theorem opensNone_carryOut (w : Word) {p : Prim} {k : List Op} {s : State} (hopen : s.csN = false)
    (hdisc : disciplined s.csN s.sck (.act p :: k) = true) : OpensNone s (carryOut w p s) := by
  cases p with
  | clear q =>
    refine .of_event (pinClear_trace q s) ?_
    rintro ⟨⟩
    simp [disciplined, hopen] at hdisc
  | set q => exact .of_event (pinSet_trace q s) nofun
  | drive =>
    simp only [carryOut, driveMosi]
    split
    · exact .of_event (pinSet_trace .mosi s) nofun
    · exact .of_event (pinClear_trace .mosi s) nofun
  | sample => exact .of_event (sampleMiso_trace s) nofun
  | delay d => exact .of_event (e := .delay d) rfl nofun
  | raise c => exact opensNone_faultEntry c w s

theorem opensNone_blockTurn {s : State} (h : s.inv = true) (hopen : s.csN = false) : OpensNone s (blockTurn s) := by
  cases hseq : s.seq with
  | idle =>
    rw [blockTurn_of_idle hseq]
    exact .refl s
  | run w k =>
    have hdisc := (canRun_of_inv h hseq).disc
    obtain ⟨hfc, p, rest, rfl⟩ := runningOk_atPrimitive (runningOk_of_inv h hseq)
    rw [blockTurn_of_running hfc hseq]
    obtain hp | ⟨c, rfl⟩ := straight_or_raise p
    · rw [advance_of_straight w p rest s hp]
      exact (opensNone_carryOut w hopen hdisc).trans (opensNone_settle w rest _)
    · exact opensNone_faultEntry c w s

/-- With a window open, no step opens another. -/
theorem opensNone_step {s t : State} (h : s.inv = true) (hopen : s.csN = false) (hstep : step s = .next t) :
    OpensNone s t := by
  obtain ⟨-, ⟨-, rfl⟩ | ⟨op, rest, -, hop⟩⟩ := step_cases hstep
  · exact opensNone_blockTurn h hopen
  · obtain ⟨-, rfl⟩ | ⟨-, rfl⟩ | ⟨w, -, hw⟩ | ⟨-, reads, rfl⟩ := hop
    · exact opensNone_blockTurn (s := { s with host := rest }) h hopen
    · exact opensNone_doReset { s with host := rest }
    · exact opensNone_writeCmd (s := { s with host := rest }) hw
    · exact .of_trace_eq rfl

/-- Settles O35: with chip-select deasserted nothing is claimed of the new events, and with a window open the discipline of
the running command keeps the primitive that opens one away. -/
theorem windowsNeverNest : Obligations.WindowsNeverNest := by
  intro s t h hstep
  cases hcs : s.csN with
  | true =>
    obtain ⟨evs, htrace⟩ := traceOnlyGrows s t hstep
    exact ⟨evs, htrace, fun _ => rfl⟩
  | false =>
    obtain ⟨evs, htrace, hnone⟩ := opensNone_step h hcs hstep
    exact ⟨evs, htrace, fun hmem => absurd hmem hnone⟩

end Sys2Proof.Machine
end

section
/-! SUPPORT. Which words decode, field by field, and what each decoded word is (30_encoding.md rules R82, R90, R93), and
what an illegal one does (60_exceptions.md rules R181, R191). -/

namespace Sys2Proof.Machine

/-! ### A row's test -/

/-- A row that answers a command answers its own. -/
theorem eq_of_row_eq_ok {w mtch mask : Word} {i j : Instr} (h : row w mtch mask i = .ok j) : i = j := by
  rw [row] at h
  split at h
  · exact Except.ok.inj h
  · simp at h

/-- The exclusion of the selector 3 answers no command of its own. -/
theorem eq_ok_of_notSelector3_eq_ok {e : Except Illegal Instr} {i : Instr} (h : notSelector3 e = .ok i) : e = .ok i := by
  unfold notSelector3 at h
  split at h
  · split at h
    · simp at h
    · exact h
  · exact h

/-- Every mask of R82 keeps `OP` and `Z` whole, so a row refuses a word of its `OP` exactly by a bit of `Z`, `R`, `A` or `D`
under the mask. -/
theorem row_error_iff {w mtch mask : Word} {n : Nat} (mr : Bool) (ma md : Byte) (i : Instr)
    (hop : (opOf w).toNat = n) (hmask : mask = ofFields 0xF 0x7FF mr ma md)
    (hmtch : mtch = c32 (BitVec.ofNat 4 n) false 0 0) :
    (∃ e, row w mtch mask i = .error e)
      ↔ zOf w ≠ 0 ∨ (rOf w && mr) = true ∨ aOf w &&& ma ≠ 0 ∨ dOf w &&& md ≠ 0 := by
  have hopw : opOf w &&& 0xF = BitVec.ofNat 4 n := by
    rw [← hop, BitVec.ofNat_toNat, BitVec.setWidth_eq]
    exact BitVec.and_allOnes
  have hz : zOf w &&& 0x7FF = zOf w := BitVec.and_allOnes
  have htest : w &&& mask = mtch ↔ zOf w = 0 ∧ (rOf w && mr) = false ∧ aOf w &&& ma = 0 ∧ dOf w &&& md = 0 := by
    rw [hmask, hmtch, c32_eq_ofFields, and_eq_iff_fields, hz]
    exact and_iff_right hopw
  rw [row]
  split <;> rename_i h <;> rw [htest] at h
  · obtain ⟨hz, hr, ha, hd⟩ := h
    simp [hz, hr, ha, hd]
  · simp only [Except.error.injEq, exists_eq', true_iff]
    simpa only [not_and_or, Bool.not_eq_false] using h

/-- The DELAY row refuses what its test refuses, and the selector 3. -/
theorem notSelector3_row_error_iff {w mtch mask : Word} {sel : BitVec 2} :
    (∃ e, notSelector3 (row w mtch mask (.delay sel)) = .error e)
      ↔ (∃ e, row w mtch mask (.delay sel) = .error e) ∨ sel = 3 := by
  by_cases htest : w &&& mask = mtch
  · by_cases hsel : sel = 3#2 <;> simp [row, notSelector3, htest, hsel]
  · simp [row, notSelector3, htest]

/-! ### Illegal words -/

theorem and_byteOnes (b : Byte) : b &&& 255#8 = b := BitVec.and_allOnes

/-- The must-be-zero bits of PULSE4's `D` (R82). -/
theorem and_F0_eq_zero_iff : ∀ d : Byte, d &&& 240#8 = 0#8 ↔ d.extractLsb' 4 4 = 0#4 := by decide

/-- The must-be-zero bits of DELAY's `A` (R82). -/
theorem and_FC_eq_zero_iff : ∀ a : Byte, a &&& 252#8 = 0#8 ↔ a.extractLsb' 2 6 = 0#6 := by decide

/-- R90: the decoder refuses exactly the words that break a condition of their row. -/
theorem decode_error_iff (w : Word) : (∃ e, decode w = .error e) ↔ brokenWord w = true := by
  match hop : (opOf w).toNat, (opOf w).isLt with
  | 0x0, _ | 0xF, _ => simp [decode, brokenWord, hop]
  | 0x1, _ | 0x2, _ | 0x6, _ | 0x7, _ | 0x8, _ | 0x9, _ | 0xD, _ =>
    simp only [decode, brokenWord, hop]
    refine (row_error_iff true 0xFF 0xFF _ hop rfl rfl).trans ?_
    simp [or_assoc, and_byteOnes]
  | 0x3, _ | 0xB, _ | 0xC, _ =>
    simp only [decode, brokenWord, hop]
    refine (row_error_iff true 0xFF 0x00 _ hop rfl rfl).trans ?_
    simp [or_assoc, and_byteOnes]
  | 0x4, _ =>
    simp only [decode, brokenWord, hop]
    refine (row_error_iff true 0x00 0xFF _ hop rfl rfl).trans ?_
    simp [or_assoc, and_byteOnes]
  | 0x5, _ =>
    simp only [decode, brokenWord, hop]
    refine (row_error_iff true 0x00 0x00 _ hop rfl rfl).trans ?_
    simp
  | 0xA, _ =>
    simp only [decode, brokenWord, hop]
    refine (row_error_iff false 0xFF 0xF0 _ hop rfl rfl).trans ?_
    simp [or_assoc, and_byteOnes, and_F0_eq_zero_iff]
  | 0xE, _ =>
    simp only [decode, brokenWord, hop]
    refine (notSelector3_row_error_iff.trans (or_congr_left (row_error_iff true 0xFC 0xFF _ hop rfl rfl))).trans ?_
    simp [or_assoc, and_byteOnes, and_FC_eq_zero_iff, or_left_comm, or_comm]
  | n + 16, hlt => omega

theorem brokenWord_of_decode_eq_ok {w : Word} {i : Instr} (h : decode w = .ok i) : brokenWord w = false := by
  have herror : ¬ ∃ e, decode w = .error e := by simp [h]
  rwa [decode_error_iff, Bool.not_eq_true] at herror

/-! ### Legal words -/

/-- A legal word has 0 in `Z`, so it is packed of its other four fields. -/
theorem c32_eq_of_fields {w : Word} {n : Nat} {r : Bool} {a d : Byte} (hop : (opOf w).toNat = n) (hz : zOf w = 0)
    (hr : rOf w = r) (ha : aOf w = a) (hd : dOf w = d) : c32 (BitVec.ofNat 4 n) r a d = w := by
  rw [c32_eq_ofFields, ← hop, BitVec.ofNat_toNat, BitVec.setWidth_eq, ← hz, ← hr, ← ha, ← hd, ofFields_fields]

/-- The operand of PULSE4 is all of `D` where the row's must-be-zero bits of `D` are 0 (R82). -/
theorem setWidth_nOf {w : Word} (h : (dOf w).extractLsb' 4 4 = 0) : (nOf w).setWidth 8 = dOf w := by
  have hback : ∀ d : Byte, d.extractLsb' 4 4 = 0 → (d.extractLsb' 0 4).setWidth 8 = d := by decide
  rw [nOf_eq, hback (dOf w) h]

theorem sOf_eq (w : Word) : sOf w = (aOf w).extractLsb' 0 2 := by
  apply BitVec.eq_of_getLsbD_eq
  intro i hi
  simp only [sOf, aOf, BitVec.getLsbD_extractLsb']
  interval_cases i <;> simp

/-- The selector of DELAY is all of `A` where the row's must-be-zero bits of `A` are 0 (R82). -/
theorem setWidth_sOf {w : Word} (h : (aOf w).extractLsb' 2 6 = 0) : (sOf w).setWidth 8 = aOf w := by
  have hback : ∀ a : Byte, a.extractLsb' 2 6 = 0 → (a.extractLsb' 0 2).setWidth 8 = a := by decide
  rw [sOf_eq, hback (aOf w) h]

/-- A legal word is the word of the command it decodes to: its must-be-zero fields are 0, and the command has its operand
fields. -/
theorem wf_and_encode_of_decode_eq_ok {w : Word} {i : Instr} (h : decode w = .ok i) : i.wf = true ∧ encode i = w := by
  have hlegal := brokenWord_of_decode_eq_ok h
  match hop : (opOf w).toNat, (opOf w).isLt with
  | 0x0, _ | 0xF, _ => simp [brokenWord, hop] at hlegal
  | 0x1, _ | 0x2, _ | 0x6, _ | 0x7, _ | 0x8, _ | 0x9, _ | 0xD, _ =>
    simp only [decode, brokenWord, hop, Bool.or_eq_false_iff, bne_eq_false_iff_eq] at h hlegal
    obtain ⟨⟨⟨hz, hr⟩, ha⟩, hd⟩ := hlegal
    obtain rfl := eq_of_row_eq_ok h
    exact ⟨rfl, c32_eq_of_fields hop hz hr ha hd⟩
  | 0x3, _ | 0xB, _ | 0xC, _ =>
    simp only [decode, brokenWord, hop, Bool.or_eq_false_iff, bne_eq_false_iff_eq] at h hlegal
    obtain ⟨⟨hz, hr⟩, ha⟩ := hlegal
    obtain rfl := eq_of_row_eq_ok h
    exact ⟨rfl, c32_eq_of_fields hop hz hr ha rfl⟩
  | 0x4, _ =>
    simp only [decode, brokenWord, hop, Bool.or_eq_false_iff, bne_eq_false_iff_eq] at h hlegal
    obtain ⟨⟨hz, hr⟩, hd⟩ := hlegal
    obtain rfl := eq_of_row_eq_ok h
    exact ⟨rfl, c32_eq_of_fields hop hz hr rfl hd⟩
  | 0x5, _ =>
    simp only [decode, brokenWord, hop, Bool.or_eq_false_iff, bne_eq_false_iff_eq] at h hlegal
    obtain ⟨hz, hr⟩ := hlegal
    obtain rfl := eq_of_row_eq_ok h
    exact ⟨rfl, c32_eq_of_fields hop hz hr rfl rfl⟩
  | 0xA, _ =>
    simp only [decode, brokenWord, hop, Bool.or_eq_false_iff, bne_eq_false_iff_eq] at h hlegal
    obtain ⟨⟨hz, ha⟩, hd⟩ := hlegal
    obtain rfl := eq_of_row_eq_ok h
    exact ⟨rfl, c32_eq_of_fields hop hz rfl ha (setWidth_nOf hd).symm⟩
  | 0xE, _ =>
    simp only [decode, brokenWord, hop, Bool.or_eq_false_iff, bne_eq_false_iff_eq, beq_eq_false_iff_ne] at h hlegal
    obtain ⟨⟨⟨⟨hz, hr⟩, hd⟩, ha⟩, hsel⟩ := hlegal
    obtain rfl := eq_of_row_eq_ok (eq_ok_of_notSelector3_eq_ok h)
    exact ⟨by simpa [Instr.wf] using hsel, c32_eq_of_fields hop hz hr (setWidth_sOf ha).symm hd⟩
  | n + 16, hlt => omega

/-! ### Fault entry seen from outside (R191) -/

/-- What fault entry does to the visible state is R191's effect. -/
theorem visible_faultEntry (c : FaultCode) (w : Word) (s : State) :
    (faultEntry c w s).visible = s.visible.faulted c w := by
  obtain ⟨hfc, hfcmd, hseq, hcs, hsck, hmosi, hei, hli, hrb, hrv, hcfg, hhost, hreads, -, -, htrace⟩ :=
    faultEntry_effect c w s
  rw [State.visible, hfc, hfcmd, hseq, hcs, hsck, hmosi, hei, hli, hrb, hrv, hcfg, hhost, hreads, htrace]
  rfl

/-- The effect of fault entry does not see the pseudocode that the sequencer was about to run. -/
theorem faulted_visible_issue (c : FaultCode) (w : Word) (k : List Op) (s : State) :
    (issue w k s).visible.faulted c w = (s.visible.issued w).faulted c w := rfl

/-! ### What the statements ask -/

/-- Settles O1: the decoder inverts the encoder, a constructor at a time. -/
theorem decodeReadsBackEveryCommand : Obligations.DecodeReadsBackEveryCommand := decode_encode_of_wf

/-- Settles O2: by the word's `OP`, whose row the word passes. -/
theorem eachLegalWordIsItsCommandsWord : Obligations.EachLegalWordIsItsCommandsWord :=
  fun _ _ => wf_and_encode_of_decode_eq_ok

/-- Settles O3: the first clause is the decoder's, row by row; in the second the word is accepted with the check
`ILLEGAL_CMD`, so fault entry follows its issue. -/
theorem illegalWordsAreRefusedByFault : Obligations.IllegalWordsAreRefusedByFault := by
  intro w
  refine ⟨decode_error_iff w, fun s hready hbroken => ⟨faultEntry .illegalCmd w (issue w [] s), ?_, ?_⟩⟩
  · obtain ⟨e, he⟩ := (decode_error_iff w).mpr hbroken
    rw [writeCmd, he]
    exact congrArg _ (accept_of_check w .illegalCmd [] hready)
  · rw [visible_faultEntry, faulted_visible_issue]

/-- Settles O4: the decoder is run on each word. -/
theorem wordsOfTheTestVectorsDecode : Obligations.WordsOfTheTestVectorsDecode := by
  unfold Obligations.WordsOfTheTestVectorsDecode
  decide

end Sys2Proof.Machine
end

section
/-! SUPPORT. Proofs of the transport family (40_transport.md R100 to R103): how a command goes, from its checks and its
pseudocode, and then BEGIN, END and XFER. -/

namespace Sys2Proof.Machine

/-! ### How a command goes, from its checks and its pseudocode (R41, R190) -/

/-- A command whose check fails raises that fault at decode. -/
theorem faultsAtDecode_of_check {i : Instr} {s : State} {c : FaultCode} (hready : s.ready)
    (hcheck : checkOf i s = some c) : FaultsAtDecode i s c := by
  refine ⟨_, exec_eq i s, ?_⟩
  rw [hcheck, accept_of_check _ _ _ hready, visible_faultEntry, faulted_visible_issue]

/-- A command whose checks pass completes when its pseudocode has run. -/
theorem completes_of_runs {i : Instr} {s t : State} {n draws : Nat} {v : Visible} (hready : s.ready)
    (hcheck : checkOf i s = none)
    (hruns : Runs (encode i) n (codeOf i s.cfg) (issue (encode i) (codeOf i s.cfg) s) t)
    (hvisible : (complete (encode i) t).visible = v) (hdraws : ∀ j, t.misoAt j = s.misoAt (draws + j)) :
    Completes i s n v draws := by
  obtain ⟨hend, hbusy⟩ := hruns []
  rw [List.append_nil] at hend hbusy
  refine ⟨settle (encode i) (codeOf i s.cfg) (issue (encode i) (codeOf i s.cfg) s), ?_, hbusy, ?_, ?_⟩
  · rw [exec_eq, hcheck, accept_of_pass _ _ hready]
  · rw [hend]
    exact hvisible
  · rw [hend]
    exact hdraws

/-! ### BEGIN and END (R100, R101) -/

/-- Settles O18: an open window fails BEGIN's check; else its one primitive runs. -/
theorem beginAssertsChipSelect : Obligations.BeginAssertsChipSelect := by
  refine ⟨decode_encode_of_wf .beginCs rfl, fun s hready => ⟨fun hopen => ?_, fun hclosed => ?_⟩⟩
  · exact faultsAtDecode_of_check hready (by simp [checkOf, checkNoWindow, hopen])
  · have hword : encode .beginCs = 0x10000000 := by decide
    refine completes_of_runs hready ((checkNoWindow_eq_none s).mpr hclosed)
      (Runs.straight _ beginCode _ rfl hready.1) ?_ fun j => congrArg s.misoAt (Nat.zero_add j).symm
    simp [hword, beginCode, runOps, Op.apply, carryOut, pinClear, issue, State.visible, hready.2]

/-- Settles O19: with no open window END's check fails; else its one primitive runs. -/
theorem endDeassertsChipSelect : Obligations.EndDeassertsChipSelect := by
  refine ⟨decode_encode_of_wf .endCs rfl, fun s hready => ⟨fun hclosed => ?_, fun hopen => ?_⟩⟩
  · exact faultsAtDecode_of_check hready (by simp [checkOf, checkEndWindow, hclosed])
  · have hword : encode .endCs = 0x20000000 := by decide
    refine completes_of_runs hready ((checkEndWindow_eq_none s).mpr hopen)
      (Runs.straight _ endCode _ rfl hready.1) ?_ fun j => congrArg s.misoAt (Nat.zero_add j).symm
    simp [hword, endCode, runOps, Op.apply, carryOut, pinSet, issue, State.visible, hready.2]

/-! ### XFER (R102) -/

/-- The pseudocode `transfer(d)` runs. -/
theorem Runs.xfer (w : Word) (d : Byte) (s : State) (hf : s.fc = .none) : Runs w 32 (xferCode d) s (xferDone d s) := by
  have h := Runs.straight w (xferCode d) s (straight_xferCode d) hf
  rwa [primCount_xferCode, runOps_xferCode] at h

/-- Settles O20: with no open window XFER's check fails; else `transfer(d)` runs, and then the write of `RESULT`. -/
theorem xferExchangesOneByte : Obligations.XferExchangesOneByte := by
  intro d
  refine ⟨decode_encode_of_wf (.xfer d) rfl, fun s hready => ⟨fun hclosed => ?_, fun hopen => ?_⟩⟩
  · exact faultsAtDecode_of_check hready (by simp [checkOf, checkXferWindow, hclosed])
  · have hruns (t : State) (hfc : t.fc = .none) :
        Runs (encode (.xfer d)) 32 (codeOf (.xfer d) s.cfg) t (assign .result (xferDone d t)) :=
      Runs.append (a := xferCode d) (n := 0) (Runs.xfer _ d t hfc) (Runs.let_ _ .result _)
    refine completes_of_runs hready ((checkXferWindow_eq_none s).mpr hopen) (hruns _ hready.1) ?_
      (s.afterDraws_misoAt 8)
    rw [State.visible, State.visible, hready.2]
    rfl

/-! ### The transfer law (R103) -/

/-- The events of an exchange that `p` picks are those it picks of each bit cell. -/
theorem filter_exchangeEvents (p : Event → Bool) (x : Exchange) :
    (exchangeEvents x).filter p
      = ((bitsOf x.1).zip (bitsOf x.2)).flatMap fun b => (cellEvents b.1 b.2).filter p :=
  List.filter_flatMap

theorem filter_mosi_cellEvents (o i : Bool) :
    (cellEvents o i).filter (fun e => e == .set .mosi || e == .clear .mosi)
      = [if o then .set .mosi else .clear .mosi] := by
  cases o <;> rfl

theorem filter_sck_cellEvents (o i : Bool) :
    (cellEvents o i).filter (fun e => e == .set .sck || e == .clear .sck) = [.set .sck, .clear .sck] := by
  cases o <;> rfl

theorem filter_notRead_cellEvents (o i : Bool) :
    (cellEvents o i).filter (fun e => e != .read true && e != .read false)
      = [if o then .set .mosi else .clear .mosi, .set .sck, .clear .sck] := by
  cases o <;> cases i <;> rfl

/-- What an exchange drives does not depend on what is sampled. -/
theorem filter_notRead_exchangeEvents (d b b' : Byte) :
    (exchangeEvents (d, b)).filter (fun e => e != .read true && e != .read false)
      = (exchangeEvents (d, b')).filter (fun e => e != .read true && e != .read false) := by
  simp only [filter_exchangeEvents, filter_notRead_cellEvents]
  rfl

/-- Shifting a bit in doubles the byte and adds the bit. -/
theorem toNat_shiftIn (b : Bool) : ∀ x : Byte, (shiftIn x b).toNat = (2 * x.toNat + b.toNat) % 256 := by
  cases b <;> decide

/-- The byte of eight draws is their sum by weights, the first draw weighing most. -/
theorem toNat_byteOfDraws (b7 b6 b5 b4 b3 b2 b1 b0 : Bool) :
    (byteOfDraws [b7, b6, b5, b4, b3, b2, b1, b0]).toNat
      = b7.toNat * 2 ^ 7 + b6.toNat * 2 ^ 6 + b5.toNat * 2 ^ 5 + b4.toNat * 2 ^ 4
        + b3.toNat * 2 ^ 3 + b2.toNat * 2 ^ 2 + b1.toNat * 2 ^ 1 + b0.toNat * 2 ^ 0 := by
  simp only [byteOfDraws, List.foldl_cons, List.foldl_nil, toNat_shiftIn]
  grind [Bool.toNat_le]

/-- What the transfer law asks of an XFER that completes: its trace and its result. -/
theorem xfer_trace_and_result (d : Byte) {s : State} (hready : s.ready) (hopen : s.csN = false) :
    ∃ u, exec (.xfer d) s = .next u
      ∧ (turns 32 u).trace = s.trace ++ [.issue (encode (.xfer d))] ++ exchangeEvents (d, s.misoByte 0)
          ++ [.done (encode (.xfer d))]
      ∧ (turns 32 u).rb = s.misoByte 0 := by
  obtain ⟨u, hexec, -, hvisible, -⟩ := ((xferExchangesOneByte d).2 s hready).2 hopen
  refine ⟨u, hexec, ?_⟩
  -- only the visible state after the 32 steps matters, not how they go
  generalize turns 32 u = t at hvisible ⊢
  exact ⟨congrArg Visible.trace hvisible, congrArg Visible.rb hvisible⟩

/-- Settles O21: by the trace and the result of a completed XFER, whose events are those of an exchange, bit cell by bit
cell. -/
theorem transferLaw : Obligations.TransferLaw := by
  constructor
  · intro d s hready hopen
    obtain ⟨u, hexec, htrace, hrb⟩ := xfer_trace_and_result d hready hopen
    refine ⟨u, exchangeEvents (d, s.misoByte 0), hexec, htrace, ?_, ?_, ?_⟩
    · rw [filter_exchangeEvents]
      simp only [filter_mosi_cellEvents]
      rfl
    · rw [filter_exchangeEvents]
      simp only [filter_sck_cellEvents]
      rfl
    · rw [hrb, State.misoByte, toNat_byteOfDraws]
      simp [Nat.add_assoc]
  · intro d d' s draws hready hopen
    obtain ⟨u, hexec, htrace, hrb⟩ := xfer_trace_and_result d hready hopen
    obtain ⟨u', hexec', htrace', -⟩ := xfer_trace_and_result d (s := { s with miso := draws }) hready hopen
    obtain ⟨v, hexecv, -, hrbv⟩ := xfer_trace_and_result d' hready hopen
    refine ⟨u, u', v, hexec, hexec', hexecv, ?_, hrb.trans hrbv.symm⟩
    rw [htrace, htrace']
    simp only [List.filter_append, filter_notRead_exchangeEvents d _ 0]

end Sys2Proof.Machine
end

section
/-! SUPPORT. Proofs of the expander family (41_expander.md R120 to R126): how a command of whole transactions completes,
RDREG, WRREG, EXPINIT and GETBTN, the size of a transaction (R121), and the raw read frame that the host builds itself. -/

namespace Sys2Proof.Machine

/-! ### A command of whole transactions (R84, R25) -/

/-- What completing the command leaves after a run over whole transactions. -/
theorem After.visible_complete {s t : State} {d : Nat} {m : Bool} {evs : List Event} (h : After s t d m evs) (w : Word) :
    (complete w t).visible
      = { s.visible with csN := true, sck := false, mosi := m, seq := .idle, trace := s.trace ++ evs ++ [.done w] } :=
  congrArg (fun v : Visible => { v with seq := .idle, trace := v.trace ++ [Event.done w] }) h.1

/-- What whole transactions leave of a ready state's visible part: the command's events and the three pins idle, but for
the last bit driven on data-out. -/
def Visible.afterFrames (v : Visible) (w : Word) (m : Bool) (fs : List Frame) : Visible :=
  { v with csN := true, sck := false, mosi := m, trace := v.trace ++ [.issue w] ++ framesEvents fs ++ [.done w] }

theorem After.visible_complete_issue {s t : State} {w : Word} {k : List Op} {d : Nat} {m : Bool} {fs : List Frame}
    (hready : s.ready) (h : After (issue w k s) t d m (framesEvents fs)) :
    (complete w t).visible = s.visible.afterFrames w m fs := by
  rw [h.visible_complete, Visible.afterFrames, State.visible, State.visible, hready.2]
  rfl

section
variable {i : Instr} {s : State} {n d : Nat} {m : Bool} {fs : List Frame} {keeps : State → Prop} {c : List Op}

/-- A command that is whole transactions and no more completes with their events. -/
theorem completes_of_frames (hready : s.ready) (hcheck : checkOf i s = none)
    (hruns : RunsAfter (encode i) n (codeOf i s.cfg) (issue (encode i) (codeOf i s.cfg) s) d m fs keeps) :
    Completes i s n (s.visible.afterFrames (encode i) m fs) d := by
  obtain ⟨t, hrun, hafter, -⟩ := hruns
  exact completes_of_runs hready hcheck hrun (hafter.visible_complete_issue hready) hafter.2

/-- A command of whole transactions that ends by the assignment `a` completes with their events and the assignment's
effect `f` on what is visible. -/
theorem completes_of_frames_assign {a : Assign} {f : Visible → Visible} (hready : s.ready) (hcheck : checkOf i s = none)
    (hcode : codeOf i s.cfg = c ++ [.let_ a])
    (hruns : RunsAfter (encode i) n c (issue (encode i) (codeOf i s.cfg) s) d m fs keeps)
    (heffect : ∀ t, keeps t → (complete (encode i) (assign a t)).visible = f (complete (encode i) t).visible)
    (hdraws : ∀ t j, (assign a t).misoAt j = t.misoAt j) :
    Completes i s n (f (s.visible.afterFrames (encode i) m fs)) d := by
  obtain ⟨t, hrun, hafter, hkeeps⟩ := hruns
  have hwhole : Runs (encode i) n (codeOf i s.cfg) (issue (encode i) (codeOf i s.cfg) s) (assign a t) := by
    rw [hcode] at hrun ⊢
    exact hrun.append (Runs.let_ _ a t)
  refine completes_of_runs hready hcheck hwhole ?_ fun j => (hdraws t j).trans (hafter.2 j)
  rw [heffect t hkeeps, hafter.visible_complete_issue hready]

end

@[simp] theorem framesEvents_singleton (f : Frame) : framesEvents [f] = frameEvents f := List.append_nil _

/-- A command that is a register read and the write of its result (R120, R126). -/
theorem completes_of_rdregCode {i : Instr} {s : State} {a : Byte} (hready : s.ready) (hcheck : checkOf i s = none)
    (hcode : codeOf i s.cfg = rdregCode s.cfg a ++ [.let_ .result]) :
    Completes i s 98
      { s.visible with
        csN := true, sck := false, mosi := s.cfg.dummy.getLsbD 0, rb := s.readValue 0, rv := true,
        trace := s.trace ++ [.issue (encode i)] ++ frameEvents (s.readFrame 0 a) ++ [.done (encode i)] } 24 := by
  rw [← framesEvents_singleton]
  refine completes_of_frames_assign (f := fun v => { v with rb := s.readValue 0, rv := true }) hready hcheck hcode
    (RunsAfter.rdreg (encode i) a (issue (encode i) (codeOf i s.cfg) s) hready.1) ?_ fun _ _ => rfl
  rintro t ⟨-, -, -, -, hret⟩
  exact congrArg (fun r => { (complete (encode i) t).visible with rb := r, rv := true }) hret

/-! ### RDREG, WRREG, EXPINIT and GETBTN -/

/-- Settles O22: an open window fails RDREG's check; else its read transaction runs, and then the write of `RESULT`. -/
theorem rdregReadsOneRegister : Obligations.RdregReadsOneRegister := by
  intro a
  refine ⟨decode_encode_of_wf (.rdreg a) rfl, fun s hready => ⟨fun hopen => ?_, fun hclosed => ?_⟩⟩
  · exact faultsAtDecode_of_check hready (by simp [checkOf, checkNoWindow, hopen])
  · exact completes_of_rdregCode (i := .rdreg a) hready ((checkNoWindow_eq_none s).mpr hclosed) rfl

/-- Settles O23: an open window fails WRREG's check; else its write transaction runs, and nothing after it. -/
theorem wrregWritesOneRegister : Obligations.WrregWritesOneRegister := by
  intro a v
  refine ⟨decode_encode_of_wf (.wrreg a v) rfl, fun s hready => ⟨fun hopen => ?_, fun hclosed => ?_⟩⟩
  · exact faultsAtDecode_of_check hready (by simp [checkOf, checkNoWindow, hopen])
  · rw [← framesEvents_singleton]
    exact completes_of_frames (i := .wrreg a v) hready ((checkNoWindow_eq_none s).mpr hclosed)
      (RunsAfter.wrreg (encode (.wrreg a v)) a v (issue _ (codeOf (.wrreg a v) s.cfg) s) hready.1)

/-- A write of an expander register that comes `d` draws after the state `s`. -/
theorem RunsAfter.wrreg_after {s t : State} {d : Nat} {m : Bool} {evs : List Event} (w : Word) (a v : Byte)
    (hf : s.fc = .none) (h : After s t d m evs) :
    RunsAfter w 98 (wrregCode s.cfg a v) t 24 (v.getLsbD 0) [s.writeFrame d a v] fun _ => True := by
  have hrun := RunsAfter.wrreg w a v t (h.fc.trans hf)
  rw [h.cfg, h.shift.writeFrame] at hrun
  exact hrun.mono fun _ _ _ => trivial

/-- The three writes of EXPINIT run one after the other (R124). -/
theorem RunsAfter.expinit (w : Word) (s : State) (hf : s.fc = .none) :
    RunsAfter w 294
      (wrregCode s.cfg s.cfg.regIodira s.cfg.dirAllIn ++ wrregCode s.cfg s.cfg.regGppua s.cfg.puAllOn
        ++ wrregCode s.cfg s.cfg.regIodirb s.cfg.dirAllOut) s 72 (s.cfg.dirAllOut.getLsbD 0)
      [s.writeFrame 0 s.cfg.regIodira s.cfg.dirAllIn, s.writeFrame 24 s.cfg.regGppua s.cfg.puAllOn,
        s.writeFrame 48 s.cfg.regIodirb s.cfg.dirAllOut] fun _ => True := by
  have htwo := (RunsAfter.wrreg w s.cfg.regIodira s.cfg.dirAllIn s hf).append
    fun _ h _ => RunsAfter.wrreg_after w s.cfg.regGppua s.cfg.puAllOn hf h
  have hthree := htwo.append fun _ h _ => RunsAfter.wrreg_after w s.cfg.regIodirb s.cfg.dirAllOut hf h
  exact hthree

/-- Settles O24: `EI` fails EXPINIT's first check and an open window its second; else its three writes run, and then `EI` is
set. -/
theorem expinitConfiguresThePorts : Obligations.ExpinitConfiguresThePorts := by
  refine ⟨decode_encode_of_wf .expinit rfl, fun s hready => ⟨fun hei => ?_, fun hei hopen => ?_, fun hei hclosed => ?_⟩⟩
  · exact faultsAtDecode_of_check hready (by simp [checkOf, checkExpFirst, hei, firstFault])
  · exact faultsAtDecode_of_check hready (by simp [checkOf, checkExpFirst, checkNoWindow, hei, hopen, firstFault])
  · have hcheck : checkOf .expinit s = none := by simp [checkOf, hei, hclosed]
    have hword : encode .expinit = 0x60000000 := by decide
    rw [← hword]
    exact completes_of_frames_assign (f := fun v => { v with ei := true }) hready hcheck rfl
      (RunsAfter.expinit (encode .expinit) (issue _ (codeOf .expinit s.cfg) s) hready.1) (fun _ _ => rfl) fun _ _ => rfl

/-- Settles O25: an open window fails GETBTN's check; else the read of port A's register runs, and then the write of
`RESULT`. -/
theorem getbtnReadsPortA : Obligations.GetbtnReadsPortA := by
  refine ⟨decode_encode_of_wf .getbtn rfl, fun s hready => ⟨fun hopen => ?_, fun hclosed => ?_⟩⟩
  · exact faultsAtDecode_of_check hready (by simp [checkOf, checkNoWindow, hopen])
  · have hword : encode .getbtn = 0x70000000 := by decide
    rw [← hword]
    exact completes_of_rdregCode (i := .getbtn) hready ((checkNoWindow_eq_none s).mpr hclosed) rfl

/-! ### The size of a transaction (R121) -/

/-- If `p` picks `k` events of every bit cell, it picks 8 `k` of an exchange. -/
theorem length_filter_exchangeEvents {p : Event → Bool} {k : Nat} (hp : ∀ o i, ((cellEvents o i).filter p).length = k)
    (x : Exchange) : ((exchangeEvents x).filter p).length = 8 * k := by
  rw [filter_exchangeEvents, List.length_flatMap]
  simp only [hp, List.map_const', List.sum_replicate, smul_eq_mul]
  rfl

/-- If `p` picks `k` events of every bit cell, it picks 8 `k` for each exchange of a window, and what it picks of the two
chip-select events. -/
theorem length_filter_frameEvents {p : Event → Bool} {k : Nat} (hp : ∀ o i, ((cellEvents o i).filter p).length = k)
    (f : Frame) :
    ((frameEvents f).filter p).length = f.length * (8 * k) + (([Event.clear .cs] ++ [Event.set .cs]).filter p).length := by
  have hexchanges : ((f.flatMap exchangeEvents).filter p).length = f.length * (8 * k) := by
    rw [List.filter_flatMap, List.length_flatMap]
    simp only [length_filter_exchangeEvents hp, List.map_const', List.sum_replicate, smul_eq_mul]
  simp only [frameEvents, List.filter_append, List.length_append, hexchanges]
  omega

/-- The frame view reads a window back from its events. -/
theorem frames_frameEvents (f : Frame) : frames (frameEvents f) = [f] := by
  rw [← framesEvents_singleton]
  exact frameViewLosesNothing [f]

/-- Where a command completes, its trace is that of the visible state it completes with. -/
theorem Completes.trace {i : Instr} {s : State} {n d : Nat} {v : Visible} (h : Completes i s n v d) :
    ∃ u, exec i s = .next u ∧ (turns n u).trace = v.trace := by
  obtain ⟨u, hexec, -, hvisible, -⟩ := h
  exact ⟨u, hexec, congrArg Visible.trace hvisible⟩

/-- The events of RDREG and WRREG with no window open are those of one window of three exchanges. -/
theorem transaction_trace {i : Instr} {s : State} (hi : (∃ a, i = .rdreg a) ∨ ∃ a v, i = .wrreg a v) (hready : s.ready)
    (hclosed : s.csN = true) :
    ∃ u x y z, exec i s = .next u
      ∧ (turns 98 u).trace = s.trace ++ [.issue (encode i)] ++ frameEvents [x, y, z] ++ [.done (encode i)] := by
  obtain ⟨a, rfl⟩ | ⟨a, v, rfl⟩ := hi
  · obtain ⟨u, hexec, htrace⟩ := (((rdregReadsOneRegister a).2 s hready).2 hclosed).trace
    exact ⟨u, _, _, _, hexec, htrace⟩
  · obtain ⟨u, hexec, htrace⟩ := (((wrregWritesOneRegister a v).2 s hready).2 hclosed).trace
    exact ⟨u, _, _, _, hexec, htrace⟩

/-- Settles O43: the command's events are a window's, and each count of a window's events is twenty-four times a bit
cell's, and chip-select's two where they count. -/
theorem transactionIsNinetyEightEvents : Obligations.TransactionIsNinetyEightEvents := by
  intro i s hi hready hclosed
  obtain ⟨u, x, y, z, hexec, htrace⟩ := transaction_trace hi hready hclosed
  refine ⟨u, x, y, z, hexec, htrace, frames_frameEvents _, ?_, rfl, ?_, ?_, ?_, ?_⟩
  · exact length_filter_frameEvents (k := 4) (by decide) _
  · exact List.getLast?_concat
  · exact length_filter_frameEvents (k := 1) (by decide) _
  · exact length_filter_frameEvents (k := 1) (by decide) _
  · exact length_filter_frameEvents (k := 2) (by decide) _

/-! ### The raw read frame (95_test_vectors.md P1) -/

/-- The visible part of a state with the pin events of its trace alone. -/
def State.pinVisible (s : State) : Visible := { s.visible with trace := pinEvents s.trace }

/-- `STATUS` is among what is visible. -/
theorem status_eq_of_pinVisible {s t : State} (h : s.pinVisible = t.pinVisible) : s.status = t.status := by
  simp only [State.pinVisible, State.visible, Visible.mk.injEq] at h
  simp only [State.status, State.bsy, State.flt, State.csa, h]

theorem pinEvents_append (a b : List Event) : pinEvents (a ++ b) = pinEvents a ++ pinEvents b := List.filter_append ..

@[simp] theorem pinEvents_exchangeEvents (x : Exchange) : pinEvents (exchangeEvents x) = exchangeEvents x := by
  have hcell (o i : Bool) : (cellEvents o i).filter Event.onPin = cellEvents o i := by cases o <;> rfl
  rw [pinEvents, filter_exchangeEvents]
  simp only [hcell]
  rfl

@[simp] theorem pinEvents_frameEvents (f : Frame) : pinEvents (frameEvents f) = frameEvents f := by
  have hexchanges : pinEvents (f.flatMap exchangeEvents) = f.flatMap exchangeEvents := by
    rw [pinEvents, List.filter_flatMap]
    exact congrArg f.flatMap (funext pinEvents_exchangeEvents)
  rw [frameEvents, pinEvents_append, pinEvents_append, hexchanges]
  rfl

/-- Where a command that completes with the pin events `evs` leads: to a ready state `t`. -/
theorem Completes.pinVisible {i : Instr} {s : State} {n d : Nat} {v : Visible} {w : Word} {evs : List Event}
    (h : Completes i s n v d) (htrace : v.trace = s.trace ++ [.issue w] ++ evs ++ [.done w]) (hevs : pinEvents evs = evs)
    (hfc : v.fc = .none) (hseq : v.seq = .idle) (hcfg : v.cfg = s.cfg) :
    ∃ u t, exec i s = .next u ∧ turns n u = t ∧ t.ready ∧ Shift s t d
      ∧ t.pinVisible = { v with trace := pinEvents s.trace ++ evs } := by
  obtain ⟨u, hexec, -, hvisible, hdraws⟩ := h
  refine ⟨u, _, hexec, rfl, ?_⟩
  generalize turns n u = t at hvisible hdraws
  subst hvisible
  refine ⟨⟨hfc, hseq⟩, ⟨hcfg, hdraws⟩, ?_⟩
  have hpins : pinEvents t.trace = pinEvents s.trace ++ evs := by
    rw [show t.trace = _ from htrace]
    simp only [pinEvents_append, hevs]
    simp [pinEvents, Event.onPin]
  rw [State.pinVisible, hpins]

/-! Each command of the raw frame, and RDREG, by what it adds to the pin events and leaves visible. -/

section
variable {s : State} (hready : s.ready)
include hready

theorem pinVisible_beginCs (hclosed : s.csN = true) :
    ∃ u t, exec .beginCs s = .next u ∧ turns 1 u = t ∧ t.ready ∧ Shift s t 0
      ∧ t.pinVisible = { s.pinVisible with csN := false, trace := s.pinVisible.trace ++ [.clear .cs] } :=
  Completes.pinVisible (w := 0x10000000) ((beginAssertsChipSelect.2 s hready).2 hclosed) (by simp) rfl hready.1 hready.2 rfl

theorem pinVisible_endCs (hopen : s.csN = false) :
    ∃ u t, exec .endCs s = .next u ∧ turns 1 u = t ∧ t.ready ∧ Shift s t 0
      ∧ t.pinVisible = { s.pinVisible with csN := true, trace := s.pinVisible.trace ++ [.set .cs] } :=
  Completes.pinVisible (w := 0x20000000) ((endDeassertsChipSelect.2 s hready).2 hopen) (by simp) rfl hready.1 hready.2 rfl

theorem pinVisible_xfer (x : Byte) (hopen : s.csN = false) :
    ∃ u t, exec (.xfer x) s = .next u ∧ turns 32 u = t ∧ t.ready ∧ Shift s t 8
      ∧ t.pinVisible =
        { s.pinVisible with
          sck := false, mosi := x.getLsbD 0, rb := s.misoByte 0, rv := true,
          trace := s.pinVisible.trace ++ exchangeEvents (x, s.misoByte 0) } :=
  (((xferExchangesOneByte x).2 s hready).2 hopen).pinVisible rfl (pinEvents_exchangeEvents _) hready.1 hready.2 rfl

theorem pinVisible_rdreg (a : Byte) (hclosed : s.csN = true) :
    ∃ u t, exec (.rdreg a) s = .next u ∧ turns 98 u = t ∧ t.ready ∧ Shift s t 24
      ∧ t.pinVisible =
        { s.pinVisible with
          csN := true, sck := false, mosi := s.cfg.dummy.getLsbD 0, rb := s.readValue 0, rv := true,
          trace := s.pinVisible.trace ++ frameEvents (s.readFrame 0 a) } :=
  (((rdregReadsOneRegister a).2 s hready).2 hclosed).pinVisible rfl (pinEvents_frameEvents _) hready.1 hready.2 rfl

end

/-- Settles O45: each of the five commands leaves the block ready for the next, and together they leave what RDREG leaves,
but for the `Issue` and `Done` events. -/
theorem rawReadFrameEqualsRdreg : Obligations.RawReadFrameEqualsRdreg := by
  intro s a hready hclosed
  obtain ⟨u0, t0, hexec0, ht0, hready0, hdraws0, hvisible0⟩ := pinVisible_beginCs hready hclosed
  have hopen0 : t0.csN = false := congrArg Visible.csN hvisible0
  obtain ⟨u1, t1, hexec1, ht1, hready1, hdraws1, hvisible1⟩ := pinVisible_xfer hready0 s.cfg.opcRead hopen0
  have hopen1 : t1.csN = false := (congrArg Visible.csN hvisible1).trans hopen0
  obtain ⟨u2, t2, hexec2, ht2, hready2, hdraws2, hvisible2⟩ := pinVisible_xfer hready1 a hopen1
  have hopen2 : t2.csN = false := (congrArg Visible.csN hvisible2).trans hopen1
  obtain ⟨u3, t3, hexec3, ht3, hready3, -, hvisible3⟩ := pinVisible_xfer hready2 s.cfg.dummy hopen2
  have hopen3 : t3.csN = false := (congrArg Visible.csN hvisible3).trans hopen2
  obtain ⟨u4, t4, hexec4, ht4, -, -, hvisible4⟩ := pinVisible_endCs hready3 hopen3
  obtain ⟨v, t, hexec, ht, -, -, hvisible⟩ := pinVisible_rdreg hready a hclosed
  have hsame : t4.pinVisible = t.pinVisible := by
    rw [hvisible4, hvisible3, hvisible2, hvisible1, hvisible0, hvisible]
    simp [hdraws2.misoByte, hdraws1.misoByte, hdraws0.misoByte, State.readValue, State.readFrame, frameEvents]
  refine ⟨u0, u1, u2, u3, u4, v, hexec0, ht0 ▸ hexec1, ht1 ▸ hexec2, ht2 ▸ hexec3, ht3 ▸ hexec4, hexec, ?_⟩
  rw [ht4, ht]
  exact ⟨congrArg Visible.trace hsame, congrArg Visible.rb hsame, congrArg Visible.csN hsame,
    status_eq_of_pinVisible hsame⟩

end Sys2Proof.Machine
end

section
/-! SUPPORT. Proofs of the LCD family (42_lcd.md R140, R144, R150): the checks and the result that its commands share, and
DELAY, PULSE4 and BUSYRD. -/

namespace Sys2Proof.Machine

/-! ### The checks of an LCD command (R186, R184, R190) -/

theorem checkLcd_of_uninitialised {s : State} (hei : s.ei = false) : checkLcd s = some .notInit := by
  simp [checkLcd, checkExpReady, hei, firstFault]

theorem checkLcd_of_window {s : State} (hei : s.ei = true) (hopen : s.csN = false) : checkLcd s = some .nestedCs := by
  simp [checkLcd, checkExpReady, checkNoWindow, hei, hopen, firstFault]

/-! ### DELAY and PULSE4 (R150, R144) -/

/-- A delay that the selector names completes in one step. -/
theorem completes_delay {sel : BitVec 2} {d : Dly} {s : State} (hready : s.ready) (hsel : delayOf sel = some d) :
    Completes (.delay sel) s 1
      { s.visible with trace := s.trace ++ [.issue (encode (.delay sel)), .delay d, .done (encode (.delay sel))] } 0 := by
  have hcode : codeOf (.delay sel) s.cfg = delayCode d := by simp [codeOf, hsel]
  have hruns (t : State) (hfc : t.fc = .none) := Runs.delay (encode (.delay sel)) d t hfc
  rw [← hcode] at hruns
  refine completes_of_runs hready (by simp [checkOf, hsel]) (hruns _ hready.1) ?_
    fun j => congrArg s.misoAt (Nat.zero_add j).symm
  simp [complete, issue, State.visible, hready.2]

/-- Settles O32: each selector of the table names its delay, and the selector 3 none. -/
theorem delayIsOneEvent : Obligations.DelayIsOneEvent := by
  refine fun s hready => ⟨fun sel d hmem => ?_, rfl, faultsAtDecode_of_check hready rfl⟩
  have hsel : Instr.wf (.delay sel) = true ∧ delayOf sel = some d := by
    simp only [List.mem_cons, Prod.mk.injEq, List.not_mem_nil, or_false] at hmem
    obtain ⟨rfl, rfl⟩ | ⟨rfl, rfl⟩ | ⟨rfl, rfl⟩ := hmem <;> decide
  exact ⟨decode_encode_of_wf (.delay sel) hsel.1, completes_delay hready hsel.2⟩

/-- Settles O29: `EI` and chip-select fail PULSE4's checks in R190's order; else its two writes run. -/
theorem pulse4WritesItsTwoPhases : Obligations.Pulse4WritesItsTwoPhases := by
  refine fun rs n => ⟨decode_encode_of_wf (.pulse4 rs n) rfl, fun s hready => ⟨?_, ?_, fun hei hclosed => ?_⟩⟩
  · exact fun hei => faultsAtDecode_of_check hready (checkLcd_of_uninitialised hei)
  · exact fun hei hopen => faultsAtDecode_of_check hready (checkLcd_of_window hei hopen)
  · exact completes_of_frames (i := .pulse4 rs n) hready ((checkLcd_eq_none s).mpr ⟨hei, hclosed⟩)
      (RunsAfter.pulse (encode (.pulse4 rs n)) rs n (issue _ (codeOf (.pulse4 rs n) s.cfg) s) hready.1)

/-! ### BUSYRD (R140) -/

/-- A command of whole transactions that returns `r` and writes it to `RESULT` (R31). -/
theorem completes_of_frames_result {i : Instr} {s : State} {n d : Nat} {m : Bool} {fs : List Frame} {r : Byte}
    {c : List Op} (hready : s.ready) (hcheck : checkOf i s = none) (hcode : codeOf i s.cfg = c ++ [.let_ .result])
    (hruns : RunsAfter (encode i) n c (issue (encode i) (codeOf i s.cfg) s) d m fs fun t => t.ret = r) :
    Completes i s n { s.visible.afterFrames (encode i) m fs with rb := r, rv := true } d :=
  completes_of_frames_assign (f := fun v => { v with rb := r, rv := true }) hready hcheck hcode hruns
    (fun t hret => congrArg (fun x => { (complete (encode i) t).visible with rb := x, rv := true }) hret) fun _ _ => rfl

/-- BUSYRD is a busy read and its return. -/
theorem RunsAfter.busyrd (w : Word) (s : State) (hf : s.fc = .none) :
    RunsAfter w (busyReadEvents s.cfg) (busyrdCode s.cfg) s (busyReadDraws s.cfg) (mosiAfterBusyRead s.cfg)
      (s.busyReadFrames 0) fun t => t.ret = s.busyStatus 0 :=
  (RunsAfter.busyRead w s hf).assign .statusReturn (fun _ => ⟨rfl, fun _ => rfl⟩) fun _ _ hkeeps => hkeeps.2

/-- Settles O26: `EI` and chip-select fail BUSYRD's checks in R190's order; else its busy read runs, and then the write of
`RESULT`. -/
theorem busyrdReadsTheStatus : Obligations.BusyrdReadsTheStatus := by
  refine ⟨decode_encode_of_wf .busyrd rfl, fun s hready => ⟨?_, ?_, fun hei hclosed => ?_⟩⟩
  · exact fun hei => faultsAtDecode_of_check hready (checkLcd_of_uninitialised hei)
  · exact fun hei hopen => faultsAtDecode_of_check hready (checkLcd_of_window hei hopen)
  · have hword : encode .busyrd = 0x80000000 := by decide
    rw [← hword]
    exact completes_of_frames_result hready ((checkLcd_eq_none s).mpr ⟨hei, hclosed⟩) rfl
      (RunsAfter.busyrd (encode .busyrd) (issue _ (codeOf .busyrd s.cfg) s) hready.1)

end Sys2Proof.Machine
end

section
/-! SUPPORT. Proofs of the busy-poll (42_lcd.md R142, R143; 60_exceptions.md R189): how far it runs, the two ways it ends, and
BUSYWAIT. -/

namespace Sys2Proof.Machine

/-! ### Runs up to a place in the pseudocode -/

/-- Standing before the pseudocode `a` in state `s`, whatever comes after it, the command `w` takes exactly `n` steps to stand
before the pseudocode `b` in state `t`, running all the while. -/
def RunsTo (w : Word) (n : Nat) (a b : List Op) (s t : State) : Prop :=
  ∀ k, turns n (settle w (a ++ k) s) = settle w (b ++ k) t ∧ ∀ m < n, (turns m (settle w (a ++ k) s)).bsy = true

theorem RunsTo.trans {w : Word} {m n : Nat} {a b c : List Op} {s t u : State} (h1 : RunsTo w m a b s t)
    (h2 : RunsTo w n b c t u) : RunsTo w (m + n) a c s u := by
  intro k
  obtain ⟨hfirst, hbusy1⟩ := h1 k
  obtain ⟨hsecond, hbusy2⟩ := h2 k
  rw [turns_add, hfirst]
  refine ⟨hsecond, fun i hi => ?_⟩
  by_cases hlt : i < m
  · exact hbusy1 i hlt
  · obtain ⟨j, rfl⟩ := Nat.exists_eq_add_of_le (Nat.le_of_not_lt hlt)
    rw [turns_add, hfirst]
    exact hbusy2 j (by omega)

/-- A run over the pseudocode `a` leads to what comes after it. -/
theorem Runs.runsTo {w : Word} {n : Nat} {a : List Op} {s t : State} (h : Runs w n a s t) (b : List Op) :
    RunsTo w n (a ++ b) b s t := by
  intro k
  rw [List.append_assoc]
  exact h (b ++ k)

/-! ### The busy-poll up to a busy read (R142) -/

/-- A limit not reached by `k` busy reads is not reached by fewer. -/
theorem limitReached_of_le {c : Config} {i k : Nat} (h : limitReached c k = false) (hi : i ≤ k) :
    limitReached c i = false := by
  cases hlimit : c.busyLimit with
  | none => simp [limitReached, hlimit]
  | some l =>
    simp only [limitReached, hlimit, decide_eq_false_iff_not] at h ⊢
    omega

/-- While the LCD is busy and the limit is not reached, the loop leads from its start to its next busy read. -/
theorem RunsTo.pollRounds (w : Word) (k : Nat) (s : State) (hf : s.fc = .none) (hb : s.busyFor 0 k = true)
    (hl : limitReached s.cfg k = false) :
    ∃ t, RunsTo w (k * busyReadEvents s.cfg) (busywaitCode s.cfg) (busyReadCode s.cfg ++ [.pollTest]) s t
      ∧ t.nb = k
      ∧ (k = 0 ∧ t = { s with nb := 0 }
          ∨ After s t (k * busyReadDraws s.cfg) (mosiAfterBusyRead s.cfg) (framesEvents (s.pollFrames 0 k))) := by
  have hlimit (i : Nat) (_ : 1 ≤ i) (hi : i ≤ k) : limitReached s.cfg (0 + i) = false :=
    limitReached_of_le hl (by omega)
  have hzero : Shift s { s with nb := 0 } 0 := ⟨rfl, fun j => congrArg s.misoAt (Nat.zero_add j).symm⟩
  obtain ⟨t, hruns, hnb, hafter⟩ := Machine.pollRounds w k { s with nb := 0 } hf (by rwa [hzero.busyFor]) hlimit
  rw [hzero.pollFrames] at hafter
  refine ⟨t, fun rest => ?_, by simpa using hnb, hafter⟩
  have hstart : settle w (busywaitCode s.cfg ++ rest) s
      = settle w (busyReadCode s.cfg ++ .pollTest :: rest) { s with nb := 0 } := by
    simp only [busywaitCode, List.append_assoc]
    rfl
  rw [hstart, List.append_assoc]
  exact hruns rest

/-- A busy-poll whose first `k` busy reads find the LCD busy leads to the loop test after the next busy read, with the
status that read. -/
theorem RunsTo.pollReads (w : Word) (k : Nat) (s : State) (hf : s.fc = .none) (hb : s.busyFor 0 k = true)
    (hl : limitReached s.cfg k = false) :
    ∃ t, RunsTo w ((k + 1) * busyReadEvents s.cfg) (busywaitCode s.cfg) [.pollTest] s t
      ∧ After s t ((k + 1) * busyReadDraws s.cfg) (mosiAfterBusyRead s.cfg) (framesEvents (s.pollFrames 0 (k + 1)))
      ∧ t.nb = k ∧ t.st = s.busyStatus (k * busyReadDraws s.cfg) := by
  obtain ⟨t, hrounds, hnb, hafter⟩ := RunsTo.pollRounds w k s hf hb hl
  have hshift : Shift s t (k * busyReadDraws s.cfg) := by
    obtain ⟨rfl, rfl⟩ | hafter := hafter
    · exact ⟨rfl, fun j => congrArg s.misoAt (by omega)⟩
    · exact hafter.shift
  have hfc : t.fc = .none := by
    obtain ⟨-, rfl⟩ | hafter := hafter
    · exact hf
    · exact hafter.fc.trans hf
  obtain ⟨u, hread, hafterRead, hnbRead, hst⟩ := RunsAfter.busyRead w t hfc
  rw [hshift.1, hshift.busyReadFrames] at hafterRead
  rw [hshift.busyStatus] at hst
  rw [hshift.1] at hread
  refine ⟨u, ?_, ?_, hnbRead.trans hnb, hst⟩
  · rw [Nat.succ_mul]
    exact hrounds.trans (hread.runsTo [.pollTest])
  · rw [State.pollFrames_succ, Nat.succ_mul, framesEvents, List.flatMap_append, Nat.zero_add]
    obtain ⟨rfl, rfl⟩ | hafter := hafter
    · simp only [State.pollFrames, List.flatMap_nil, List.nil_append, Nat.zero_mul, Nat.zero_add] at hafterRead ⊢
      exact hafterRead
    · exact hafter.trans hafterRead

/-! ### The ends of a busy-poll (R143, R189) -/

/-- The first `k + 1` busy reads all find the LCD busy exactly when the first `k` do and the last does. -/
theorem State.busyFor_succ (s : State) (j k : Nat) :
    s.busyFor j (k + 1) = (s.busyFor j k && busyFlag (s.busyStatus (j + k * busyReadDraws s.cfg))) := by
  induction k generalizing j with
  | zero => simp [State.busyFor]
  | succ k ih =>
    rw [State.busyFor, ih, State.busyFor, Bool.and_assoc, Nat.succ_mul, Nat.add_right_comm, Nat.add_assoc]

/-- Busy reads that do not all find the LCD busy have a first one that does not. -/
theorem State.exists_first_not_busy {s : State} {k : Nat} (h : s.busyFor 0 k = false) :
    ∃ i < k, s.busyFor 0 i = true ∧ busyFlag (s.busyStatus (i * busyReadDraws s.cfg)) = false := by
  induction k with
  | zero => simp [State.busyFor] at h
  | succ k ih =>
    cases hk : s.busyFor 0 k with
    | false =>
      obtain ⟨i, hi, hfirst⟩ := ih hk
      exact ⟨i, by omega, hfirst⟩
    | true =>
      rw [State.busyFor_succ, hk, Bool.true_and, Nat.zero_add] at h
      exact ⟨k, by omega, hk, h⟩

/-- A busy-poll that never finds the LCD not busy runs on, up to its limit. -/
theorem busyPoll_runsOn (w : Word) (rest : List Op) (k : Nat) (s : State) (hf : s.fc = .none)
    (hb : s.busyFor 0 k = true) (hl : limitReached s.cfg k = false) :
    ∀ m ≤ k * busyReadEvents s.cfg, (turns m (settle w (busywaitCode s.cfg ++ rest) s)).bsy = true := by
  obtain ⟨t, hrounds, -⟩ := RunsTo.pollRounds w k s hf hb hl
  obtain ⟨hend, hbusy⟩ := hrounds rest
  intro m hm
  obtain rfl | hlt := Nat.eq_or_lt_of_le hm
  · rw [hend]
    rfl
  · exact hbusy m hlt

/-- A fault does not see the sequencer that it stops. -/
theorem After.visible_faulted {s t : State} {d : Nat} {m : Bool} {evs : List Event} (h : After s t d m evs)
    (c : FaultCode) (w : Word) :
    t.visible.faulted c w
      = Visible.faulted { s.visible with csN := true, sck := false, mosi := m, trace := s.trace ++ evs } c w := by
  have hsame := congrArg (fun v => Visible.faulted v c w) h.1
  exact hsame

/-- The block's step at a raised fault is R191's effect. -/
theorem visible_blockTurn_of_raise {s : State} {w : Word} {c : FaultCode} {k : List Op} (hf : s.fc = .none)
    (hs : s.seq = .run w (.act (.raise c) :: k)) : (blockTurn s).visible = s.visible.faulted c w := by
  rw [blockTurn_of_running hf hs, advance_of_raise, visible_faultEntry]

/-- A busy-poll whose limit of busy reads all find the LCD busy raises `BUSY_TIMEOUT` after them (R189). -/
theorem busyPoll_timesOut (w : Word) (rest : List Op) (l : Nat) (s : State) (hf : s.fc = .none) (hl : 1 ≤ l)
    (hlimit : s.cfg.busyLimit = some l) (hb : s.busyFor 0 l = true) :
    (∀ m ≤ l * busyReadEvents s.cfg, (turns m (settle w (busywaitCode s.cfg ++ rest) s)).bsy = true)
      ∧ (turns (l * busyReadEvents s.cfg + 1) (settle w (busywaitCode s.cfg ++ rest) s)).visible =
          Visible.faulted
            { s.visible with
              csN := true, sck := false, mosi := mosiAfterBusyRead s.cfg,
              trace := s.trace ++ framesEvents (s.pollFrames 0 l) } .busyTimeout w := by
  obtain ⟨k, rfl⟩ : ∃ k, l = k + 1 := ⟨l - 1, by omega⟩
  rw [State.busyFor_succ, Nat.zero_add, Bool.and_eq_true] at hb
  obtain ⟨t, hreads, hafter, hnb, hst⟩ := RunsTo.pollReads w k s hf hb.1 (by simp [limitReached, hlimit])
  obtain ⟨hend, hbusy⟩ := hreads rest
  have hraise : settle w ([.pollTest] ++ rest) t
      = { t with nb := t.nb + 1, seq := .run w (.act (.raise .busyTimeout) :: rest) } :=
    settle_pollTest_timeout w rest t (by rw [hst, hb.2]) (by simp [limitReached, hafter.cfg, hlimit, hnb])
  rw [hraise] at hend
  constructor
  · intro m hm
    obtain rfl | hlt := Nat.eq_or_lt_of_le hm
    · rw [hend]
      rfl
    · exact hbusy m hlt
  · rw [turns_add, hend]
    refine (visible_blockTurn_of_raise (s := { t with nb := t.nb + 1, seq := .run w (.act (.raise .busyTimeout) :: rest) })
      (hafter.fc.trans hf) rfl).trans ?_
    exact hafter.visible_faulted .busyTimeout w

/-! ### Acceptance draws no sample (R41) -/

section
variable (w : Word) (c : List Op) (s : State) (j k : Nat)

theorem shift_issue : Shift s (issue w c s) 0 := ⟨rfl, fun j => congrArg s.misoAt (Nat.zero_add j).symm⟩

@[simp] theorem issue_busyFor : (issue w c s).busyFor j k = s.busyFor j k := by
  rw [(shift_issue w c s).busyFor, Nat.zero_add]

@[simp] theorem issue_pollEnds : (issue w c s).pollEnds j k = s.pollEnds j k := by
  rw [(shift_issue w c s).pollEnds, Nat.zero_add]

@[simp] theorem issue_pollFrames : (issue w c s).pollFrames j k = s.pollFrames j k := by
  rw [(shift_issue w c s).pollFrames, Nat.zero_add]

@[simp] theorem issue_pulseFrames (rs : Bool) (n : Nibble) : (issue w c s).pulseFrames j rs n = s.pulseFrames j rs n := by
  rw [(shift_issue w c s).pulseFrames, Nat.zero_add]

end

/-! ### BUSYWAIT (R142, R143) -/

section
variable {s : State} (hready : s.ready) (hei : s.ei = true) (hclosed : s.csN = true)
include hready hei hclosed

/-- BUSYWAIT completes with the first busy read to find the LCD not busy. -/
theorem completes_busywait {k : Nat} (hends : s.pollEnds 0 k = true) :
    Completes .busywait s ((k + 1) * busyReadEvents s.cfg)
      { s.visible.afterFrames (encode .busywait) (mosiAfterBusyRead s.cfg) (s.pollFrames 0 (k + 1)) with
        rb := s.busyStatus (k * busyReadDraws s.cfg), rv := true }
      ((k + 1) * busyReadDraws s.cfg) := by
  have hruns := RunsAfter.busywait (encode .busywait) k (issue (encode .busywait) (codeOf .busywait s.cfg) s) hready.1
    (by rwa [issue_pollEnds])
  rw [issue_pollFrames, issue_cfg] at hruns
  exact completes_of_frames_result hready ((checkLcd_eq_none s).mpr ⟨hei, hclosed⟩) rfl hruns

/-- A BUSYWAIT that is accepted stands before its busy-poll. -/
theorem exec_busywait :
    exec .busywait s = .next
      (settle (encode .busywait) (busywaitCode s.cfg ++ [.let_ .result])
        (issue (encode .busywait) (codeOf .busywait s.cfg) s)) := by
  have hcheck : checkOf .busywait s = none := (checkLcd_eq_none s).mpr ⟨hei, hclosed⟩
  rw [exec_eq, hcheck, accept_of_pass _ _ hready]
  rfl

variable {u : State} (hexec : exec .busywait s = .next u)
include hexec

/-- BUSYWAIT runs up to the busy read that ends its busy-poll, and then the block is ready. -/
theorem busywait_ready {k : Nat} (hends : s.pollEnds 0 k = true) :
    (∀ m < (k + 1) * busyReadEvents s.cfg, (turns m u).bsy = true)
      ∧ (turns ((k + 1) * busyReadEvents s.cfg) u).ready := by
  obtain ⟨u', hexec', hbusy, hvisible, -⟩ := completes_busywait hready hei hclosed hends
  obtain rfl : u = u' := Host.Outcome.next.inj (hexec.symm.trans hexec')
  generalize turns ((k + 1) * busyReadEvents s.cfg) u = t at hvisible ⊢
  exact ⟨hbusy, (congrArg Visible.fc hvisible).trans hready.1, (congrArg Visible.seq hvisible).trans hready.2⟩

/-- With no limit BUSYWAIT runs on as long as its busy reads find the LCD busy. -/
theorem busywait_runsOn {k : Nat} (hnone : s.cfg.busyLimit = none) (hb : s.busyFor 0 k = true) :
    ∀ m ≤ k * busyReadEvents s.cfg, (turns m u).bsy = true := by
  obtain rfl := Host.Outcome.next.inj ((exec_busywait hready hei hclosed).symm.trans hexec)
  exact busyPoll_runsOn _ _ k (issue (encode .busywait) (codeOf .busywait s.cfg) s) hready.1 (by rwa [issue_busyFor])
    (by simp [limitReached, hnone])

/-- A BUSYWAIT whose limit of busy reads all find the LCD busy runs over them and raises `BUSY_TIMEOUT`. -/
theorem busywait_timesOut {l : Nat} (hl : 1 ≤ l) (hlimit : s.cfg.busyLimit = some l) (hb : s.busyFor 0 l = true) :
    (∀ m ≤ l * busyReadEvents s.cfg, (turns m u).bsy = true)
      ∧ (turns (l * busyReadEvents s.cfg + 1) u).visible =
          Visible.faulted
            { s.visible with
              csN := true, sck := false, mosi := mosiAfterBusyRead s.cfg,
              trace := s.trace ++ [.issue (encode .busywait)] ++ framesEvents (s.pollFrames 0 l) }
            .busyTimeout (encode .busywait) := by
  obtain rfl := Host.Outcome.next.inj ((exec_busywait hready hei hclosed).symm.trans hexec)
  have htimeout := busyPoll_timesOut (encode .busywait) [.let_ .result] l
    (issue (encode .busywait) (codeOf .busywait s.cfg) s) hready.1 hl hlimit (by rwa [issue_busyFor])
  rw [issue_pollFrames, issue_cfg] at htimeout
  exact htimeout

end

/-- Settles O27: a busy-poll that ends lets the command complete, and one that does not reaches its limit. -/
theorem busywaitPollsUntilNotBusy : Obligations.BusywaitPollsUntilNotBusy := by
  have hword : encode .busywait = 0x90000000 := by decide
  refine ⟨decode_encode_of_wf .busywait rfl, fun s hready => ⟨?_, ?_, fun k hei hclosed hends => ?_, ?_⟩⟩
  · exact fun hei => faultsAtDecode_of_check hready (checkLcd_of_uninitialised hei)
  · exact fun hei hopen => faultsAtDecode_of_check hready (checkLcd_of_window hei hopen)
  · rw [← hword]
    exact completes_busywait hready hei hclosed hends
  · intro l hei hclosed hl hlimit hb
    have hexec := exec_busywait hready hei hclosed
    rw [← hword]
    exact ⟨_, hexec, (busywait_timesOut hready hei hclosed hexec hl hlimit hb).2⟩

/-- The busy read that a busy-poll from draw 0 on ends with, where no limit comes before it. -/
theorem State.pollEnds_of_first_not_busy {s : State} {k : Nat} (hb : s.busyFor 0 k = true)
    (hfirst : busyFlag (s.busyStatus (k * busyReadDraws s.cfg)) = false) (hl : limitReached s.cfg k = false) :
    s.pollEnds 0 k = true := by
  simp [State.pollEnds, hb, hfirst, hl]

theorem busyReadEvents_pos (c : Config) : 0 < busyReadEvents c := by
  cases h : c.pollTail <;> simp [busyReadEvents, h]

/-- Settles O28: with no limit the busy-poll runs on until its first busy read that finds the LCD not busy, which is the one
it completes with; with a limit there is such a read within it, or the limit is reached. -/
theorem busywaitTerminationLaw : Obligations.BusywaitTerminationLaw := by
  intro s hready hei hclosed
  obtain ⟨u, hexec⟩ : ∃ u, exec .busywait s = .next u := ⟨_, exec_busywait hready hei hclosed⟩
  have hfinish (k : Nat) (hends : s.pollEnds 0 k = true) := busywait_ready hready hei hclosed hexec hends
  have hidle (t : State) (ht : t.ready) : t.bsy = false := by simp [State.bsy, ht.2]
  refine ⟨u, hexec, fun hnone k => ⟨fun ⟨hbusy, hend⟩ => ?_, fun ⟨hb, hfirst⟩ => ?_⟩,
    fun hnone k => busywait_runsOn hready hei hclosed hexec hnone, fun l hl hlimit => ?_⟩
  · have hread : s.busyFor 0 (k + 1) = false := by
      by_contra hall
      have hrunning := busywait_runsOn hready hei hclosed hexec hnone (Bool.eq_true_of_not_eq_false hall) _ le_rfl
      simp [hrunning] at hend
    obtain ⟨i, hi, hb, hfirst⟩ := State.exists_first_not_busy hread
    obtain ⟨-, hdone⟩ := hfinish i (State.pollEnds_of_first_not_busy hb hfirst (by simp [limitReached, hnone]))
    obtain rfl : i = k := by
      by_contra hne
      have hlt := Nat.mul_lt_mul_of_pos_right (show i + 1 < k + 1 by omega) (busyReadEvents_pos s.cfg)
      exact absurd (hbusy _ hlt) (by simp [hidle _ hdone])
    exact ⟨hb, hfirst⟩
  · obtain ⟨hbusy, hdone⟩ := hfinish k (State.pollEnds_of_first_not_busy hb hfirst (by simp [limitReached, hnone]))
    exact ⟨hbusy, hidle _ hdone⟩
  · cases hb : s.busyFor 0 l with
    | false =>
      obtain ⟨k, hk, hb, hfirst⟩ := State.exists_first_not_busy hb
      have hwithin : limitReached s.cfg k = false := by simpa [limitReached, hlimit] using hk
      exact .inl ⟨k, hk, (hfinish k (State.pollEnds_of_first_not_busy hb hfirst hwithin)).2⟩
    | true =>
      obtain ⟨hbusy, hvisible⟩ := busywait_timesOut hready hei hclosed hexec hl hlimit hb
      generalize turns (l * busyReadEvents s.cfg + 1) u = t at hvisible ⊢
      exact .inr ⟨hbusy _ le_rfl, congrArg Visible.fc hvisible⟩

end Sys2Proof.Machine
end

section
/-! SUPPORT. Proofs of the byte writes (42_lcd.md R146 to R148, R154): WRCMD and WRDATA, and what they show on port B. -/

namespace Sys2Proof.Machine

/-! ### WRCMD and WRDATA (R146 to R148) -/

theorem Shift.byteEnds {s t : State} {d : Nat} (h : Shift s t d) (j : Nat) (p : BytePlan) :
    t.byteEnds j p = s.byteEnds (d + j) p := by
  simp only [State.byteEnds, BytePlan.secondAt, BytePlan.thirdAt, h.pollEnds, h.1, Nat.add_assoc]

theorem Shift.byteFrames {s t : State} {d : Nat} (h : Shift s t d) (j : Nat) (rs : Bool) (v : Byte) (p : BytePlan) :
    t.byteFrames j rs v p = s.byteFrames (d + j) rs v p := by
  simp only [State.byteFrames, BytePlan.secondAt, BytePlan.thirdAt, h.pollFrames, h.pulseFrames, h.1, Nat.add_assoc]

section
variable (w : Word) (c : List Op) (s : State) (j : Nat) (p : BytePlan)

@[simp] theorem issue_byteEnds : (issue w c s).byteEnds j p = s.byteEnds j p := by
  rw [(shift_issue w c s).byteEnds, Nat.zero_add]

@[simp] theorem issue_byteFrames (rs : Bool) (v : Byte) : (issue w c s).byteFrames j rs v p = s.byteFrames j rs v p := by
  rw [(shift_issue w c s).byteFrames, Nat.zero_add]

end

/-- A command that is a byte write completes with its five steps (R147). -/
theorem completes_of_lcdByteCode {i : Instr} {s : State} {rs : Bool} {v : Byte} {p : BytePlan} (hready : s.ready)
    (hcheck : checkOf i s = none) (hcode : codeOf i s.cfg = lcdByteCode s.cfg rs v) (hends : s.byteEnds 0 p = true) :
    Completes i s (p.events s.cfg)
      (s.visible.afterFrames (encode i) (mosiAfterBusyRead s.cfg) (s.byteFrames 0 rs v p)) (p.endAt s.cfg 0) := by
  have hruns := RunsAfter.lcdByte (encode i) rs v p (issue (encode i) (codeOf i s.cfg) s) hready.1
    (by rwa [issue_byteEnds])
  rw [issue_byteFrames, issue_cfg, ← hcode] at hruns
  exact completes_of_frames hready hcheck hruns

/-- Settles O30: each command's pseudocode is a byte write, whose register-select is 0 for WRCMD and 1 for WRDATA. -/
theorem byteWritesTakeTheFiveSteps : Obligations.ByteWritesTakeTheFiveSteps := by
  intro v s p hready hei hclosed hends
  have hcheck := (checkLcd_eq_none s).mpr ⟨hei, hclosed⟩
  exact ⟨completes_of_lcdByteCode (i := .wrcmd v) hready hcheck rfl hends,
    completes_of_lcdByteCode (i := .wrdata v) hready hcheck rfl hends⟩

/-! ### The port B view of a byte write (R154) -/

/-- The reader of the frame view passes over the events that open and close no window. -/
theorem frames_issue_done (w : Word) (fs : List Frame) : frames ([.issue w] ++ framesEvents fs ++ [.done w]) = fs := by
  obtain ⟨o, i, hfs⟩ := readAll_framesEvents [] false false fs
  have hwhole : FrameReader.start.readAll ([.issue w] ++ framesEvents fs) = .between fs o i := hfs
  rw [frames_eq, FrameReader.readAll_append, hwhole]
  rfl

theorem portBOf_writeFrame (s : State) (j : Nat) (v : Byte) :
    portBOf s.cfg (s.writeFrame j s.cfg.regGpiob v) = some (.w v) := by
  simp [portBOf, State.writeFrame]

/-- A read of port B is seen as one where the two opcodes differ (R8). -/
theorem portBOf_readFrame {s : State} (hopc : s.cfg.opcRead ≠ s.cfg.opcWrite) (j : Nat) :
    portBOf s.cfg (s.readFrame j s.cfg.regGpiob) = some (.r (s.readValue j)) := by
  simp [portBOf, State.readFrame, State.readValue, hopc]

/-- A busy-poll that ends with its first read is seen as one busy read. -/
theorem filterMap_portBOf_pollFrames {s : State} (hopc : s.cfg.opcRead ≠ s.cfg.opcWrite) (htail : s.cfg.pollTail = .none)
    (j : Nat) :
    (s.pollFrames j 1).filterMap (portBOf s.cfg) =
      [.w (readIdle s.cfg), .w (readStrobe s.cfg), .r (s.readValue (j + 48)),
        .w (readIdle s.cfg), .w (readStrobe s.cfg), .r (s.readValue (j + 120))] := by
  simp [State.pollFrames, State.busyReadFrames, htail, portBOf_writeFrame, portBOf_readFrame hopc]

theorem filterMap_portBOf_pulseFrames (s : State) (j : Nat) (rs : Bool) (n : Nibble) :
    (s.pulseFrames j rs n).filterMap (portBOf s.cfg) = [.w (pulseEnable s.cfg rs n), .w (pulseLatch s.cfg rs n)] := by
  simp [State.pulseFrames, portBOf_writeFrame]

theorem onDataLines_hiNibble : ∀ x : Byte, onDataLines (hiNibble x) = x >>> 4 := by decide

theorem onDataLines_loNibble : ∀ x : Byte, onDataLines (loNibble x) = x &&& 0xF := by decide

/-- The busy flag is bit 3 of the first of a busy read's two port B reads (R140, R141). -/
theorem busyFlag_busyStatus (s : State) (j : Nat) : busyFlag (s.busyStatus j) = (s.readValue (j + 48)).getLsbD 3 := by
  have hstatus : ∀ hi lo : Nibble, busyFlag (assembleStatus hi lo) = hi.getLsbD 3 := by decide
  have hnibble : ∀ r : Byte, (dataNibble r).getLsbD 3 = r.getLsbD 3 := by decide
  rw [State.busyStatus, hstatus, hnibble]

/-- A busy-poll that ends with its first read reads bit 3 as 0 there. -/
theorem readValue_of_pollEnds {s : State} {j : Nat} (h : s.pollEnds j 0 = true) :
    (s.readValue (j + 48)).getLsbD 3 = false := by
  simp only [State.pollEnds, Bool.and_eq_true, Bool.not_eq_true', Nat.zero_mul, Nat.add_zero] at h
  rw [← busyFlag_busyStatus, h.1.2]

/-- The latch-phase value with the control bits of a pulse named as R154 names them. -/
theorem pulseLatch_eq (c : Config) (rs : Bool) (n : Nibble) :
    pulseLatch c rs n = (if rs then c.pbBl ||| c.pbRs else c.pbBl) ||| onDataLines n := by
  cases rs
  · exact congrArg (· ||| onDataLines n) BitVec.or_zero
  · rfl

/-- Settles O31: the events are those of the five steps' frames, and each frame is one entry of the view. -/
theorem portBViewOfByteWrites : Obligations.PortBViewOfByteWrites := by
  intro rs x s hwf htail hready hei hclosed hends
  have hopc : s.cfg.opcRead ≠ s.cfg.opcWrite := ((config_wf_iff s.cfg).mp hwf).2.1
  have hcheck : checkOf (if rs then .wrdata x else .wrcmd x) s = none := by
    cases rs <;> exact (checkLcd_eq_none s).mpr ⟨hei, hclosed⟩
  have hcode : codeOf (if rs then .wrdata x else .wrcmd x) s.cfg = lcdByteCode s.cfg rs x := by cases rs <;> rfl
  obtain ⟨u, hexec, htrace⟩ := (completes_of_lcdByteCode hready hcheck hcode hends).trace
  simp only [State.byteEnds, Bool.and_eq_true] at hends
  obtain ⟨⟨hfirst, hsecond⟩, hthird⟩ := hends
  generalize encode (if rs then .wrdata x else .wrcmd x) = w at htrace
  refine ⟨u, [.issue w] ++ framesEvents (s.byteFrames 0 rs x ⟨0, 0, 0⟩) ++ [.done w],
    _, s.readValue (0 + 120), _, s.readValue (BytePlan.secondAt s.cfg ⟨0, 0, 0⟩ 0 + 120),
    _, s.readValue (BytePlan.thirdAt s.cfg ⟨0, 0, 0⟩ 0 + 120), hexec, ?_, ?_,
    readValue_of_pollEnds hfirst, readValue_of_pollEnds hsecond, readValue_of_pollEnds hthird⟩
  · simpa [Visible.afterFrames, State.visible] using htrace
  · rw [portBView, frames_issue_done, State.byteFrames]
    simp only [List.filterMap_append, filterMap_portBOf_pollFrames hopc htail, filterMap_portBOf_pulseFrames,
      pulseEnable, pulseLatch_eq, onDataLines_hiNibble, onDataLines_loNibble]
    rfl

end Sys2Proof.Machine
end

section
/-! SUPPORT. Proof of LCD initialisation (42_lcd.md R152): pulses and byte writes with delays between them. -/

namespace Sys2Proof.Machine

/-! ### Transactions and delays (R149) -/

/-- A run over whole transactions and delays: it exists, and leaves what `After` says. -/
def RunsWith (w : Word) (n : Nat) (c : List Op) (s : State) (d : Nat) (m : Bool) (evs : List Event) : Prop :=
  ∃ t, Runs w n c s t ∧ After s t d m evs

theorem RunsAfter.runsWith {w : Word} {n d : Nat} {c : List Op} {s : State} {m : Bool} {fs : List Frame}
    {keeps : State → Prop} (h : RunsAfter w n c s d m fs keeps) : RunsWith w n c s d m (framesEvents fs) := by
  obtain ⟨t, hrun, hafter, -⟩ := h
  exact ⟨t, hrun, hafter⟩

/-- The pseudocode of the two commands that `INIT_ORDER` orders (R152). -/
def orderedCode (c : Config) : List Op :=
  match c.initOrder with
  | .onThenClear => wrcmdCode c c.lcdDispon ++ clearCode c
  | .clearThenOn => clearCode c ++ wrcmdCode c c.lcdDispon

section
variable {w : Word} {n d : Nat} {c : List Op} {s : State} {m : Bool} {evs : List Event}

/-- A delay comes before transactions and delays. -/
theorem RunsWith.delay_then (dl : Dly) (hf : s.fc = .none) (h : RunsWith w n c (emit (.delay dl) s) d m evs) :
    RunsWith w (1 + n) (delayCode dl ++ c) s d m ([.delay dl] ++ evs) := by
  obtain ⟨t, hrun, hvisible, hdraws⟩ := h
  refine ⟨t, (Runs.delay w dl s hf).append hrun, ?_, hdraws⟩
  rw [← List.append_assoc]
  exact hvisible

variable (h : RunsWith w n c s d m evs)
include h

/-- A delay comes after transactions and delays. -/
theorem RunsWith.delay (dl : Dly) (hf : s.fc = .none) :
    RunsWith w (n + 1) (c ++ delayCode dl) s d m (evs ++ [.delay dl]) := by
  obtain ⟨t, hrun, hafter⟩ := h
  refine ⟨emit (.delay dl) t, hrun.append (Runs.delay w dl t (hafter.fc.trans hf)), ?_, hafter.2⟩
  rw [← List.append_assoc]
  exact congrArg (fun v : Visible => { v with trace := v.trace ++ [Event.delay dl] }) hafter.1

/-- A nibble pulse comes after transactions and delays. -/
theorem RunsWith.pulse (rs : Bool) (x : Nibble) (hf : s.fc = .none) :
    RunsWith w (n + 196) (c ++ pulse4Code s.cfg rs x) s (d + 48) ((pulseLatch s.cfg rs x).getLsbD 0)
      (evs ++ framesEvents (s.pulseFrames d rs x)) := by
  obtain ⟨t, hrun, hafter⟩ := h
  obtain ⟨u, hpulse, hafter', -⟩ := RunsAfter.pulse w rs x t (hafter.fc.trans hf)
  rw [hafter.cfg] at hpulse
  rw [hafter.cfg, hafter.shift.pulseFrames] at hafter'
  exact ⟨u, hrun.append hpulse, hafter.trans hafter'⟩

/-- A byte write comes after transactions and delays. -/
theorem RunsWith.lcdByte (rs : Bool) (v : Byte) {p : BytePlan} (hf : s.fc = .none) (hends : s.byteEnds d p = true) :
    RunsWith w (n + p.events s.cfg) (c ++ lcdByteCode s.cfg rs v) s (p.endAt s.cfg d) (mosiAfterBusyRead s.cfg)
      (evs ++ framesEvents (s.byteFrames d rs v p)) := by
  obtain ⟨t, hrun, hafter⟩ := h
  obtain ⟨u, hbyte, hafter', -⟩ := RunsAfter.lcdByte w rs v p t (hafter.fc.trans hf) (by rwa [hafter.shift.byteEnds])
  have hendAt : d + p.endAt s.cfg 0 = p.endAt s.cfg d := by
    simp only [BytePlan.endAt, BytePlan.thirdAt, BytePlan.secondAt]
    omega
  rw [hafter.cfg] at hbyte
  rw [hafter.cfg, hafter.shift.byteFrames] at hafter'
  rw [← hendAt]
  exact ⟨u, hrun.append hbyte, hafter.trans hafter'⟩

/-- A mode pulse comes after transactions and delays (R152). -/
theorem RunsWith.modePulse (x : Nibble) (hf : s.fc = .none) :
    RunsWith w (n + 197) (c ++ modePulseCode s.cfg x) s (d + 48) ((pulseLatch s.cfg false x).getLsbD 0)
      (evs ++ s.modePulseEvents d x) := by
  rw [modePulseCode, State.modePulseEvents, ← List.append_assoc, ← List.append_assoc]
  exact (h.pulse false x hf).delay .init hf

/-- The two commands that `INIT_ORDER` orders come after transactions and delays (R152). -/
theorem RunsWith.ordered {p : InitPlan} (hf : s.fc = .none) (hd : d = p.secondAt s.cfg)
    (hsecond : s.byteEnds (p.secondAt s.cfg) p.second = true) (hthird : s.byteEnds (p.thirdAt s.cfg) p.third = true) :
    RunsWith w (n + (p.second.events s.cfg + p.third.events s.cfg + 1))
      (c ++ orderedCode s.cfg) s (p.entryAt s.cfg) (mosiAfterBusyRead s.cfg) (evs ++ s.orderedEvents p) := by
  subst hd
  rw [State.orderedEvents]
  cases horder : s.cfg.initOrder with
  | onThenClear =>
    have hboth := ((h.lcdByte false s.cfg.lcdDispon hf hsecond).lcdByte false s.cfg.lcdClear hf hthird).delay .clear hf
    simpa only [orderedCode, horder, clearCode, wrcmdCode, InitPlan.entryAt, InitPlan.thirdAt, List.append_assoc,
      Nat.add_assoc] using hboth
  | clearThenOn =>
    have hboth := ((h.lcdByte false s.cfg.lcdClear hf hsecond).delay .clear hf).lcdByte false s.cfg.lcdDispon hf hthird
    have hn : n + (p.second.events s.cfg + p.third.events s.cfg + 1)
        = n + p.second.events s.cfg + 1 + p.third.events s.cfg := by omega
    rw [hn]
    simpa only [orderedCode, horder, clearCode, wrcmdCode, InitPlan.entryAt, InitPlan.thirdAt, List.append_assoc] using hboth

end

/-! ### LCDINIT (R152) -/

theorem shift_emit (e : Event) (s : State) : Shift s (emit e s) 0 :=
  ⟨rfl, fun j => congrArg s.misoAt (Nat.zero_add j).symm⟩

/-- The pseudocode of LCD initialisation up to the set of `LI`. -/
def lcdinitTransactions (c : Config) : List Op :=
  delayCode .pre
    ++ modePulseCode c c.nibInitA ++ modePulseCode c c.nibInitA ++ modePulseCode c c.nibInitA
    ++ modePulseCode c c.nibInitB
    ++ wrcmdCode c c.lcdFuncset
    ++ orderedCode c
    ++ wrcmdCode c c.lcdEntry

theorem lcdinitCode_eq (c : Config) : lcdinitCode c = lcdinitTransactions c ++ [.let_ .setLi] := rfl

/-- LCD initialisation begins with a delay and a mode pulse. -/
theorem RunsWith.delay_modePulse (w : Word) (dl : Dly) (x : Nibble) (s : State) (hf : s.fc = .none) :
    RunsWith w 198 (delayCode dl ++ modePulseCode s.cfg x) s 48 ((pulseLatch s.cfg false x).getLsbD 0)
      ([.delay dl] ++ s.modePulseEvents 0 x) := by
  have hpulse := (RunsAfter.pulse w false x (emit (.delay dl) s) hf).runsWith
  rw [emit_cfg, (shift_emit (.delay dl) s).pulseFrames] at hpulse
  rw [modePulseCode, State.modePulseEvents]
  have hdelays := (hpulse.delay .init hf).delay_then dl hf
  exact hdelays

/-- LCD initialisation makes its events, in either order of display-on and clear. -/
theorem RunsWith.lcdinit (w : Word) (s : State) {p : InitPlan} (hf : s.fc = .none) (hends : s.initEnds p = true) :
    RunsWith w (p.steps s.cfg) (lcdinitTransactions s.cfg) s (p.entry.endAt s.cfg (p.entryAt s.cfg))
      (mosiAfterBusyRead s.cfg) (s.initEvents p) := by
  simp only [State.initEnds, Bool.and_eq_true] at hends
  obtain ⟨⟨⟨hfuncset, hsecond⟩, hthird⟩, hentry⟩ := hends
  have hpulses := (((RunsWith.delay_modePulse w .pre s.cfg.nibInitA s hf).modePulse s.cfg.nibInitA hf).modePulse
    s.cfg.nibInitA hf).modePulse s.cfg.nibInitB hf
  have hall := ((hpulses.lcdByte false s.cfg.lcdFuncset hf hfuncset).ordered hf rfl hsecond hthird).lcdByte false
    s.cfg.lcdEntry hf hentry
  have hn : p.steps s.cfg = 198 + 197 + 197 + 197 + p.funcset.events s.cfg
      + (p.second.events s.cfg + p.third.events s.cfg + 1) + p.entry.events s.cfg := by
    rw [InitPlan.steps]
    omega
  rw [hn]
  exact hall

@[simp] theorem issue_initEnds (w : Word) (c : List Op) (s : State) (p : InitPlan) :
    (issue w c s).initEnds p = s.initEnds p := by
  simp only [State.initEnds, issue_byteEnds, issue_cfg]

@[simp] theorem issue_initEvents (w : Word) (c : List Op) (s : State) (p : InitPlan) :
    (issue w c s).initEvents p = s.initEvents p := by
  simp only [State.initEvents, State.modePulseEvents, State.orderedEvents, issue_byteFrames, issue_pulseFrames, issue_cfg]

/-- LCDINIT completes with its events, and then `LI` is set. -/
theorem completes_lcdinit {s : State} {p : InitPlan} (hready : s.ready) (hcheck : checkOf .lcdinit s = none)
    (hends : s.initEnds p = true) :
    Completes .lcdinit s (p.steps s.cfg)
      { s.visible with
        csN := true, sck := false, mosi := mosiAfterBusyRead s.cfg, li := true,
        trace := s.trace ++ [.issue (encode .lcdinit)] ++ s.initEvents p ++ [.done (encode .lcdinit)] }
      (p.entry.endAt s.cfg (p.entryAt s.cfg)) := by
  obtain ⟨t, hrun, hafter⟩ := RunsWith.lcdinit (encode .lcdinit) (issue (encode .lcdinit) (codeOf .lcdinit s.cfg) s)
    (p := p) hready.1 (by rwa [issue_initEnds])
  rw [issue_initEvents, issue_cfg] at hafter
  refine completes_of_runs hready hcheck (hrun.append (Runs.let_ _ .setLi t)) ?_ hafter.2
  have hvisible := congrArg (fun v : Visible => { v with li := true }) (hafter.visible_complete (encode .lcdinit))
  refine Eq.trans hvisible ?_
  rw [State.visible, State.visible, hready.2]
  rfl

/-- Settles O33: `LI`, `EI` and chip-select fail LCDINIT's checks in R190's order; else its events run, and then `LI` is
set. -/
theorem lcdinitSendsTheSequence : Obligations.LcdinitSendsTheSequence := by
  refine ⟨decode_encode_of_wf .lcdinit rfl, fun s hready => ⟨fun hli => ?_, fun hli hei => ?_, fun hli hei hopen => ?_,
    fun p hli hei hclosed hends => ?_⟩⟩
  · exact faultsAtDecode_of_check hready (by simp [checkOf, checkLcdFirst, hli, firstFault])
  · exact faultsAtDecode_of_check hready
      (by simp [checkOf, checkLcdFirst, checkLcd_of_uninitialised hei, hli, firstFault])
  · exact faultsAtDecode_of_check hready
      (by simp [checkOf, checkLcdFirst, checkLcd_of_window hei hopen, hli, firstFault])
  · have hword : encode .lcdinit = 0xD0000000 := by decide
    rw [← hword]
    exact completes_lcdinit hready (by simp [checkOf, hli, hei, hclosed]) hends

end Sys2Proof.Machine
end

section
/-! SUPPORT. Proofs of the exceptions family (60_exceptions.md R180 to R193): fault entry, the order of the checks, OVERRUN,
the fault state and BUSY_TIMEOUT. -/

namespace Sys2Proof.Machine

/-! ### Fault entry (R191) -/

/-- Settles O13: fault entry has R191's effect on what is visible. -/
theorem faultEntryRecordsAndReleases : Obligations.FaultEntryRecordsAndReleases := visible_faultEntry

/-! ### A word written to `CMD` (R41) -/

/-- A legal word is accepted with the checks and the pseudocode of its command. -/
theorem writeCmd_of_legal {w : Word} {i : Instr} (h : decode w = .ok i) (s : State) :
    writeCmd w s = .next (accept w (checkOf i s) (codeOf i s.cfg) s) := by
  obtain ⟨-, hword⟩ := wf_and_encode_of_decode_eq_ok h
  rw [writeCmd, h]
  exact hword ▸ exec_eq i s

/-- Whatever the word, a write of it is its acceptance. -/
theorem exists_writeCmd_eq_accept (w : Word) (s : State) :
    ∃ check k, writeCmd w s = .next (accept w check k s) := by
  cases h : decode w with
  | ok i => exact ⟨_, _, writeCmd_of_legal h s⟩
  | error e => exact ⟨some .illegalCmd, [], by rw [writeCmd, h]⟩

/-- Any word is ignored in the fault state (R193). -/
theorem writeCmd_of_fault (w : Word) {s : State} (hf : s.fc ≠ .none) : writeCmd w s = .next s := by
  obtain ⟨check, k, h⟩ := exists_writeCmd_eq_accept w s
  rw [h, accept_of_fault w check k hf]

/-- Any word is an overrun while a command runs (R182). -/
theorem writeCmd_of_running (w : Word) {s : State} {w' : Word} {k : List Op} (hf : s.fc = .none) (hs : s.seq = .run w' k) :
    writeCmd w s = .next (faultEntry .overrun w s) := by
  obtain ⟨check, k', h⟩ := exists_writeCmd_eq_accept w s
  rw [h, accept_of_running w check k' hf hs]

/-- The step in which the host writes `w` to `CMD`. -/
theorem step_of_cmdWrite {s : State} {w : Word} {rest : List HostOp} (hwf : s.cfg.wf = true)
    (hhost : s.host = .write 0x0 32 w :: rest) : step s = writeCmd w { s with host := rest } := by
  simp [step, cycle, hwf, hhost, hostTurn, hostWrite, cmdOffset]

/-- Settles O15: the step is the write, which enters the fault from the state with the write taken off the host's list. -/
theorem writeWhileBusyOverruns : Obligations.WriteWhileBusyOverruns := by
  intro s w w' k rest hwf hf hs hhost
  refine ⟨faultEntry .overrun w { s with host := rest }, ?_, visible_faultEntry .overrun w _⟩
  rw [step_of_cmdWrite hwf hhost]
  exact writeCmd_of_running w (s := { s with host := rest }) hf hs

/-- Settles O16: in the fault state a turn of the block does nothing and a write of `CMD` is ignored; the other turns of the
host leave the block alone. -/
theorem faultStateStaysUntilReset : Obligations.FaultStateStaysUntilReset := by
  intro s t hf hstep hreset
  obtain ⟨-, ⟨hhost, rfl⟩ | ⟨op, rest, hhost, hop⟩⟩ := step_cases hstep
  · rw [blockTurn_of_fault hf, hhost, List.tail_nil, ← hhost]
  · rw [hhost, List.tail_cons]
    obtain ⟨-, rfl⟩ | ⟨rfl, -⟩ | ⟨w, -, hw⟩ | ⟨-, reads, rfl⟩ := hop
    · rw [blockTurn_of_fault (s := { s with host := rest }) hf]
    · simp [hhost] at hreset
    · rw [writeCmd_of_fault w (s := { s with host := rest }) hf] at hw
      obtain rfl := Host.Outcome.next.inj hw
      rfl
    · rfl

/-! ### The order of the checks (R183 to R188, R190) -/

theorem checkNoWindow_eq (s : State) : checkNoWindow s = if s.csN = false then some .nestedCs else none := by
  cases h : s.csN <;> simp [checkNoWindow, h]

theorem checkExpReady_eq (s : State) : checkExpReady s = if s.ei = false then some .notInit else none := by
  cases h : s.ei <;> simp [checkExpReady, h]

/-- A check that fails goes before the checks after it. -/
theorem firstFault_ite (p : Prop) [Decidable p] (c : FaultCode) (checks : List (Option FaultCode)) :
    firstFault ((if p then some c else none) :: checks) = if p then some c else firstFault checks := by
  split <;> rfl

theorem firstFault_singleton (check : Option FaultCode) : firstFault [check] = check := by
  cases check <;> rfl

/-- The checks of an LCD command are `NOT_INIT`, and then `NESTED_CS`. -/
theorem checkLcd_eq (s : State) :
    checkLcd s = if s.ei = false then some .notInit else if s.csN = false then some .nestedCs else none := by
  rw [checkLcd, checkExpReady_eq, firstFault_ite, checkNoWindow_eq, firstFault_singleton]

/-- The checks of a well-formed command raise the fault that R190's order gives. -/
theorem checkOf_eq_faultAtDecode {i : Instr} (hwf : i.wf = true) (s : State) :
    checkOf i s = faultAtDecode i s.csN s.ei s.li := by
  cases i with
  | beginCs | rdreg a | wrreg a v | getbtn =>
    simp [checkOf, checkNoWindow_eq, faultAtDecode, Instr.isLcd, Instr.opensWindow]
  | endCs | xfer d =>
    simp [checkOf, checkEndWindow, checkXferWindow, faultAtDecode, Instr.isLcd, Instr.opensWindow]
  | expinit =>
    simp [checkOf, checkExpFirst, checkNoWindow_eq, firstFault_ite, faultAtDecode, Instr.isLcd, Instr.opensWindow]
  | busyrd | busywait | pulse4 rs n | wrcmd v | wrdata v =>
    simp [checkOf, checkLcd_eq, faultAtDecode, Instr.isLcd, Instr.opensWindow]
  | lcdinit =>
    simp [checkOf, checkLcdFirst, checkLcd_eq, firstFault_ite, firstFault_singleton, faultAtDecode, Instr.isLcd,
      Instr.opensWindow]
  | delay sel =>
    have hnamed : ∀ sel : BitVec 2, Instr.wf (.delay sel) = true → (delayOf sel).isSome = true := by decide
    obtain ⟨d, hd⟩ := Option.isSome_iff_exists.mp (hnamed sel hwf)
    simp [checkOf, hd, faultAtDecode, Instr.isLcd, Instr.opensWindow]

/-- A command whose checks pass has a primitive to stand at. -/
theorem bsy_settle_of_pass {i : Instr} {s : State} (hcheck : checkOf i s = none) (w : Word) (t : State) :
    (settle w (codeOf i s.cfg) t).bsy = true := by
  obtain hnil | hbsy := bsy_settle_codeOf w i s.cfg t
  · cases i with
    | delay sel =>
      cases hd : delayOf sel with
      | none => simp [checkOf, hd] at hcheck
      | some d => simp [codeOf, hd, delayCode] at hnil
    | _ => cases hnil
  · exact hbsy

/-- Settling at a primitive changes nothing visible but the sequencer. -/
theorem visible_settle_of_bsy {w : Word} {k : List Op} {s : State} (hends : endsOnly k = true)
    (hbsy : (settle w k s).bsy = true) : (settle w k s).visible = { s.visible with seq := (settle w k s).seq } := by
  induction k generalizing s with
  | nil => simp [settle, complete, State.bsy] at hbsy
  | cons o k ih =>
    cases o with
    | act p => rfl
    | let_ a =>
      cases a with
      | result | setEi | setLi =>
        obtain rfl : k = [] := List.isEmpty_iff.mp hends
        simp [settle, complete, State.bsy] at hbsy
      | _ => exact ih (endsOnly_tail hends) hbsy
    | pollTest =>
      rw [settle] at hbsy ⊢
      split at hbsy <;> rename_i hb
      · rw [if_pos hb]
        split <;> rfl
      · rw [if_neg hb]
        exact ih (endsOnly_tail hends) hbsy

/-! ### The fault that a running command can raise (R189) -/

theorem settle_fc (w : Word) (k : List Op) (s : State) : (settle w k s).fc = s.fc := by
  induction k generalizing s with
  | nil => rfl
  | cons o k ih =>
    cases o with
    | act p => rfl
    | let_ a => exact (ih (assign a s)).trans (assign_fc a s)
    | pollTest =>
      rw [settle]
      split
      · split <;> rfl
      · exact ih _

/-- A raised fault in pseudocode that can run is `BUSY_TIMEOUT`, and the limit is finite. -/
theorem CanRun.raise {s : State} {w : Word} {c : FaultCode} {k : List Op} (h : CanRun s w (.act (.raise c) :: k)) :
    c = .busyTimeout ∧ s.cfg.busyLimit.isSome = true := by
  obtain ⟨i, -, hown⟩ := h.kind
  simp only [ownKind, List.all_cons, Bool.and_eq_true, beq_iff_eq] at hown
  exact hown.2.1

/-- The block's step keeps the fault code, or enters `BUSY_TIMEOUT` where the limit is finite. -/
theorem blockTurn_fc {s : State} (h : s.inv = true) :
    (blockTurn s).fc = s.fc ∨ (blockTurn s).fc = .busyTimeout ∧ s.cfg.busyLimit.isSome = true := by
  cases hseq : s.seq with
  | idle => exact .inl (congrArg State.fc (blockTurn_of_idle hseq))
  | run w k =>
    have hrun := canRun_of_inv h hseq
    obtain ⟨hfc, p, rest, rfl⟩ := runningOk_atPrimitive (runningOk_of_inv h hseq)
    rw [blockTurn_of_running hfc hseq]
    obtain hp | ⟨c, rfl⟩ := straight_or_raise p
    · rw [advance_of_straight w p rest s hp, settle_fc]
      exact .inl (carryOut_frame w p s hp).2.1
    · obtain ⟨rfl, hfinite⟩ := hrun.raise
      exact .inr ⟨(faultEntry_effect .busyTimeout w s).1, hfinite⟩

/-- Settles O14: a write is ignored, an overrun or an illegal word by the state and the word alone; else the checks of the
word's command are R190's, and a command that passes them settles at its first primitive. -/
theorem commandWritesAreCheckedInOrder : Obligations.CommandWritesAreCheckedInOrder := by
  intro w s
  refine ⟨writeCmd_of_fault w, fun hf hbsy => ?_, (illegalWordsAreRefusedByFault w).2 s, fun hready i hd => ?_,
    fun hinv hbsy => ?_⟩
  · obtain ⟨w', k, hs⟩ := (bsy_iff s).mp hbsy
    exact ⟨_, writeCmd_of_running w hf hs, visible_faultEntry .overrun w s⟩
  · obtain ⟨hwf, -⟩ := wf_and_encode_of_decode_eq_ok hd
    rw [← checkOf_eq_faultAtDecode hwf s, writeCmd_of_legal hd s]
    refine ⟨fun c hcheck => ⟨_, rfl, ?_⟩, fun hcheck => ⟨_, rfl, ?_⟩⟩
    · rw [hcheck, accept_of_check _ _ _ hready, visible_faultEntry, faulted_visible_issue]
    · rw [hcheck, accept_of_pass _ _ hready]
      have hruns := bsy_settle_of_pass hcheck w (issue w (codeOf i s.cfg) s)
      exact ⟨hruns, visible_settle_of_bsy (endsOnly_codeOf i s.cfg) hruns⟩
  · obtain ⟨w', k, hs⟩ := (bsy_iff s).mp hbsy
    obtain hsame | ⟨htimeout, -⟩ := blockTurn_fc hinv
    · exact .inl (hsame.trans (canRun_of_inv hinv hs).noFault)
    · exact .inr htimeout

/-! ### BUSY_TIMEOUT (R189) -/

theorem faultAtDecode_ne_busyTimeout (i : Instr) (csN ei li : Bool) : faultAtDecode i csN ei li ≠ some .busyTimeout := by
  unfold faultAtDecode
  repeat' split
  all_goals simp

/-- No write of `CMD` raises `BUSY_TIMEOUT`. -/
theorem writeCmd_fc_ne_busyTimeout {w : Word} {s t : State} (hw : writeCmd w s = .next t) (hs : s.fc ≠ .busyTimeout) :
    t.fc ≠ .busyTimeout := by
  have haccept (check : Option FaultCode) (k : List Op) (hcheck : check ≠ some .busyTimeout) :
      (accept w check k s).fc ≠ .busyTimeout := by
    obtain ⟨-, ha⟩ | ⟨-, ha⟩ | ⟨-, c, rfl, ha⟩ | ⟨-, -, ha⟩ := accept_cases w check k s
    all_goals rw [ha]
    · exact hs
    · rw [(faultEntry_effect .overrun w s).1]
      nofun
    · rw [(faultEntry_effect c w _).1]
      exact fun hc => hcheck (congrArg some hc)
    · rwa [settle_fc, issue_fc]
  cases hd : decode w with
  | ok i =>
    obtain ⟨hwf, -⟩ := wf_and_encode_of_decode_eq_ok hd
    obtain rfl := Host.Outcome.next.inj ((writeCmd_of_legal hd s).symm.trans hw)
    refine haccept _ _ ?_
    rw [checkOf_eq_faultAtDecode hwf s]
    exact faultAtDecode_ne_busyTimeout i s.csN s.ei s.li
  | error e =>
    rw [writeCmd, hd] at hw
    obtain rfl := Host.Outcome.next.inj hw
    exact haccept _ _ nofun

/-- With no limit the block's step does not raise `BUSY_TIMEOUT`. -/
theorem blockTurn_fc_of_unbounded {s : State} (h : s.inv = true) (hnone : s.cfg.busyLimit = none) :
    (blockTurn s).fc = s.fc := by
  obtain hsame | ⟨-, hfinite⟩ := blockTurn_fc h
  · exact hsame
  · simp [hnone] at hfinite

/-- Settles O17: a finite limit of busy reads that all find the LCD busy leads to the raised fault and its entry; with no
limit neither a turn of the block nor a write of `CMD` raises it, and no other step raises any. -/
theorem busyPollTimesOutAtItsLimitOnly : Obligations.BusyPollTimesOutAtItsLimitOnly := by
  refine ⟨fun s w k l hf hl hlimit hb => busyPoll_timesOut w k l s hf hl hlimit hb, fun s t h hnone hstep hs => ?_⟩
  obtain ⟨-, ⟨-, rfl⟩ | ⟨op, rest, -, hop⟩⟩ := step_cases hstep
  · rwa [blockTurn_fc_of_unbounded h hnone]
  · obtain ⟨-, rfl⟩ | ⟨-, rfl⟩ | ⟨w, -, hw⟩ | ⟨-, reads, rfl⟩ := hop
    · rwa [blockTurn_fc_of_unbounded (s := { s with host := rest }) h hnone]
    · simp [State.reset]
    · exact writeCmd_fc_ne_busyTimeout (s := { s with host := rest }) hw hs
    · exact hs

end Sys2Proof.Machine
end

section
/-! SUPPORT. Proofs of the reset and hazards family (70_reset_and_hazards.md): reset (R210), and the counts of pin events
and delays (R231). -/

namespace Sys2Proof.Machine

/-! ### Reset (R210) -/

/-- The step in which the reset signal comes. -/
theorem step_of_reset {s : State} {rest : List HostOp} (hwf : s.cfg.wf = true) (hhost : s.host = .reset :: rest) :
    step s = .next (doReset { s with host := rest }) := by
  simp [step, cycle, hwf, hhost, hostTurn]

theorem doReset_misoAt (s : State) (j : Nat) : (doReset s).misoAt j = s.misoAt j := rfl

/-- Settles O6: the step is the reset, from the state with the host's turn taken off its list. -/
theorem resetRestoresTheBlock : Obligations.ResetRestoresTheBlock := by
  intro s rest hwf hhost
  exact ⟨doReset { s with host := rest }, step_of_reset hwf hhost, rfl, doReset_misoAt { s with host := rest }⟩

/-- The four events of a reset drive every pin to its reset level, whatever it was. -/
theorem levelAfter_resetEvents (p : OutPin) (v : Bool) : levelAfter p v resetEvents = State.reset.level p := by
  cases p <;> rfl

/-- Settles O7: the reset state's clock is low and its block idle, the reset events drive every pin, the defaults meet each
condition of R8, and the host's list is empty. -/
theorem resetStateMeetsTheInvariants : Obligations.ResetStateMeetsTheInvariants := by
  have hinv : State.reset.inv = true := by decide
  have hwf : State.reset.cfg.wf = true := (config_wf_iff Config.default).mpr (by decide)
  exact ⟨hinv, levelAfter_resetEvents, hwf, rfl⟩

/-! ### The pin events of frames (R231) -/

@[simp] theorem framesEvents_nil : framesEvents [] = [] := rfl

@[simp] theorem framesEvents_cons (f : Frame) (fs : List Frame) :
    framesEvents (f :: fs) = frameEvents f ++ framesEvents fs := rfl

@[simp] theorem framesEvents_append (fs gs : List Frame) :
    framesEvents (fs ++ gs) = framesEvents fs ++ framesEvents gs := List.flatMap_append

@[simp] theorem pinCount_nil : pinCount [] = 0 := rfl

@[simp] theorem pinCount_delay (d : Dly) : pinCount [.delay d] = 0 := rfl

@[simp] theorem pinCount_append (a b : List Event) : pinCount (a ++ b) = pinCount a + pinCount b := by
  rw [pinCount, pinEvents_append, List.length_append]
  rfl

/-- A window is 32 pin events an exchange, and two of chip-select. -/
theorem pinCount_frameEvents (f : Frame) : pinCount (frameEvents f) = f.length * 32 + 2 :=
  length_filter_frameEvents (k := 4) (by decide) f

@[simp] theorem pinCount_writeFrame (s : State) (j : Nat) (a v : Byte) : pinCount (frameEvents (s.writeFrame j a v)) = 98 :=
  pinCount_frameEvents _

@[simp] theorem pinCount_readFrame (s : State) (j : Nat) (a : Byte) : pinCount (frameEvents (s.readFrame j a)) = 98 :=
  pinCount_frameEvents _

/-- A busy read is six transactions, or seven with the deasserting tail. -/
@[simp] theorem pinCount_busyReadFrames (s : State) (j : Nat) :
    pinCount (framesEvents (s.busyReadFrames j)) = busyReadEvents s.cfg := by
  cases htail : s.cfg.pollTail <;> simp [State.busyReadFrames, busyReadEvents, htail]

@[simp] theorem pinCount_pollFrames (s : State) (j k : Nat) :
    pinCount (framesEvents (s.pollFrames j k)) = k * busyReadEvents s.cfg := by
  induction k generalizing j with
  | zero => simp [State.pollFrames]
  | succ k ih =>
    rw [State.pollFrames, framesEvents_append, pinCount_append, pinCount_busyReadFrames, ih, Nat.succ_mul, Nat.add_comm]

/-- A nibble pulse is two transactions. -/
@[simp] theorem pinCount_pulseFrames (s : State) (j : Nat) (rs : Bool) (n : Nibble) :
    pinCount (framesEvents (s.pulseFrames j rs n)) = 196 := by
  simp [State.pulseFrames]

/-- A byte write is two nibble pulses and the busy reads of its three busy-polls. -/
@[simp] theorem pinCount_byteFrames (s : State) (j : Nat) (rs : Bool) (v : Byte) (p : BytePlan) :
    pinCount (framesEvents (s.byteFrames j rs v p)) = p.events s.cfg := by
  simp only [State.byteFrames, framesEvents_append, pinCount_append, pinCount_pollFrames, pinCount_pulseFrames,
    BytePlan.events, BytePlan.reads, Nat.add_mul]
  omega

/-! ### The pin events and delays of LCD initialisation (R231) -/

@[simp] theorem pinCount_modePulseEvents (s : State) (j : Nat) (n : Nibble) : pinCount (s.modePulseEvents j n) = 196 := by
  simp [State.modePulseEvents]

/-- In either order, the two commands are two byte writes. -/
@[simp] theorem pinCount_orderedEvents (s : State) (q : InitPlan) :
    pinCount (s.orderedEvents q) = q.second.events s.cfg + q.third.events s.cfg := by
  cases horder : s.cfg.initOrder <;>
    simp only [State.orderedEvents, horder, pinCount_append, pinCount_byteFrames, pinCount_delay, Nat.add_zero]

/-- LCD initialisation is four mode pulses and four byte writes. -/
theorem pinCount_initEvents (s : State) (q : InitPlan) :
    pinCount (s.initEvents q) =
      784 + q.funcset.events s.cfg + q.second.events s.cfg + q.third.events s.cfg + q.entry.events s.cfg := by
  simp only [State.initEvents, pinCount_append, pinCount_delay, pinCount_modePulseEvents, pinCount_byteFrames,
    pinCount_orderedEvents]
  omega

/-- The number of `Delay` events of a trace (R231). -/
def delayCount (t : List Event) : Nat :=
  (t.filter fun e => e == .delay .pre || e == .delay .init || e == .delay .clear).length

@[simp] theorem delayCount_delay (d : Dly) : delayCount [.delay d] = 1 := by
  cases d <;> rfl

@[simp] theorem delayCount_append (a b : List Event) : delayCount (a ++ b) = delayCount a + delayCount b := by
  rw [delayCount, List.filter_append, List.length_append]
  rfl

/-- A window has no delay in it. -/
theorem delayCount_frameEvents (f : Frame) : delayCount (frameEvents f) = 0 :=
  length_filter_frameEvents (k := 0) (by decide) f

@[simp] theorem delayCount_framesEvents (fs : List Frame) : delayCount (framesEvents fs) = 0 := by
  induction fs with
  | nil => rfl
  | cons f fs ih => rw [framesEvents_cons, delayCount_append, delayCount_frameEvents, ih]

/-- LCD initialisation waits first, after each of the four mode pulses, and after the clear. -/
theorem delayCount_initEvents (s : State) (q : InitPlan) : delayCount (s.initEvents q) = 6 := by
  have hmode (j : Nat) (n : Nibble) : delayCount (s.modePulseEvents j n) = 1 := by simp [State.modePulseEvents]
  have hordered : delayCount (s.orderedEvents q) = 1 := by
    cases horder : s.cfg.initOrder <;>
      simp only [State.orderedEvents, horder, delayCount_append, delayCount_framesEvents, delayCount_delay]
  simp only [State.initEvents, delayCount_append, delayCount_delay, delayCount_framesEvents, hmode, hordered]

/-- Settles O44: each unit is whole transactions of 98 pin events, and delays, which are none. -/
theorem pinEventCounts : Obligations.PinEventCounts := fun s j k rs n v p q =>
  ⟨pinCount_pollFrames s j k, pinCount_pulseFrames s j rs n, pinCount_byteFrames s j rs v p, pinCount_initEvents s q,
    delayCount_initEvents s q⟩

end Sys2Proof.Machine
end
